-- ==== Sys2Proof/Word.lean ====
section
/-! DEFINITION. The two word types of the block: the wire unit is a byte (00_scope.md R8) and a host operation is a
16-bit word (30_encoding.md R77). Bit 0 is the least significant bit (R9). -/

namespace Sys2Proof

/-- One wire unit, 8 bits (R8). -/
abbrev Byte := BitVec 8

/-- One host-operation word, 16 bits (R77). -/
abbrev HostWord := BitVec 16

end Sys2Proof
end

