-- ==== Sys2Proof/Config.lean ====
section
/-! DEFINITION. The implementation parameters of 00_scope.md R7, each a named field with the default the spec gives,
and the two configuration functions of the reference consumer (45_scan_aggregator.md, decision D20). They are fixed
for the life of an instance (10_state.md R31, 20_memory.md R62). -/

namespace Sys2Proof

/-- An angle in radians as R231 writes it, `toRad(deg)`, held as its exact argument: plain data whatever real function
`toRad` is (log 6). `Radians.value` is the real number. -/
structure Radians where
  deg : Rat
deriving DecidableEq, Repr

/-- The parameters of R7, in its order, and then the two functions of 45_scan_aggregator.md, `toRad` and `now`. `none` in
`maxPayload` and `evqDepth` is R7's "unbounded (model)". -/
structure Config where
  cmdSync    : Byte := 0xA5
  hdrSync0   : Byte := 0xA5
  hdrSync1   : Byte := 0x5A
  hdrLen     : Nat := 7
  stdUnit    : Nat := 5
  stdType    : Byte := 0x81
  expUnit    : Nat := 84
  expType    : Byte := 0x82
  expCabins  : Nat := 16
  expSamples : Nat := 32
  interpDiv  : Nat := 32
  losLimit   : Nat := 84
  syncNib1   : BitVec 4 := 0xA
  syncNib2   : BitVec 4 := 0x5
  degQ6Full  : Nat := 23040
  degQ11Full : Nat := 737280
  maxPayload : Option Nat := none
  evqDepth   : Option Nat := none
  /-- a degrees-to-radians function other than the exact one, which is `none` (R231, D20). `Config.toRad` is the
  function. -/
  toRadFn    : Option (Rat → ℝ) := none
  /-- the consumer's clock: the time of its k-th read, in seconds (R237). -/
  now        : Nat → Rat

/-- `toRad : ℚ → ℝ` (R231, D20): any function, `deg * π / 180` by default. No step computes it: only the Sample view
asks for its value, so it alone need not be computable. -/
noncomputable def Config.toRad (c : Config) : Rat → ℝ :=
  match c.toRadFn with
  | none => fun deg => deg * Real.pi / 180
  | some f => f

/-- The real number of radians an angle is, under the configured `toRad`. -/
noncomputable def Radians.value (c : Config) (x : Radians) : ℝ := c.toRad x.deg

/-- FREE VALUE (R237, D32; log 5): the time of the clock's first read. It has no body. -/
opaque Config.clockStart : Rat

/-- FREE VALUE (R237, D32; log 5): how much the consumer's clock moved before its k-th read. It has no body, so a claim
about a time or a rate holds whatever the clock does. -/
opaque Config.clockGap : Nat → NNRat

/-- The clock of R237: a free input under the one law that successive reads never decrease, which holds because
every gap is at least zero. -/
def Config.clock : Nat → Rat
  | 0 => Config.clockStart
  | k + 1 => Config.clock k + (Config.clockGap (k + 1)).val

/-- The modelled instance: every parameter at its default (R7), the clock free. -/
def Config.rpd : Config := { now := Config.clock }

/-- The sizes State is built for, and the bounds a build must keep: the register widths of 10_state.md R25 to R29, the
packet arithmetic of 30_encoding.md R75, room for the largest step in a finite event FIFO (70_reset_and_hazards.md
R287), and a clock that never goes back (R237). -/
structure Config.Wf (c : Config) : Prop where
  hdrLen     : c.hdrLen = 7
  stdUnit    : c.stdUnit = 5
  expCabins  : c.expCabins = 16
  expSamples : c.expSamples = 2 * c.expCabins
  expUnit    : c.expUnit = 4 + 5 * c.expCabins
  interpDiv  : c.interpDiv = c.expSamples
  losLimit   : c.losLimit + 1 < 2 ^ 7
  degrees    : c.degQ11Full = 32 * c.degQ6Full
  angleFits  : 0 < c.degQ11Full ∧ c.degQ11Full ≤ 2 ^ 20
  fifoRoom   : ∀ d, c.evqDepth = some d → 33 ≤ d
  clock      : ∀ k, c.now k ≤ c.now (k + 1)

end Sys2Proof
end

