-- ==== Sys2Proof/Syntax.lean ====
section
/-! DEFINITION. The syntax: one constructor of `Instr` per row of spec/opcode_table.json (eight device commands, any
other command frame, the six host operations, the reserved host words, and the four inbound wire units), with the
operands its row's encoding carries. -/

namespace Sys2Proof

/-- The response kind a host declares at START (10_state.md R23); the value 3 is never stored, so it has no name. -/
inductive Expect
  | single
  | std
  | exp
deriving DecidableEq, Repr

/-- One express sample as a cabin carries it: distance in millimetres, sign (true = negative delta) and magnitude in
1/8 degree (10_state.md R29, 44_express_scan.md R196, R197). -/
structure Pair where
  dist : BitVec 14
  sgn  : Bool
  mag  : BitVec 5
deriving DecidableEq, Repr

/-- The two samples of one `exp_cabin` (30_encoding.md R76). -/
structure Cabin where
  s1 : Pair
  s2 : Pair
deriving DecidableEq, Repr

/-- The fields of one `std_unit` (30_encoding.md R74); `chk` is byte 1 bit 0, which the block ignores. -/
structure StdUnit where
  quality : BitVec 6
  sbar    : Bool
  s       : Bool
  angle   : BitVec 15
  chk     : Bool
  dist    : BitVec 16
deriving DecidableEq, Repr

/-- The fields of one `exp_packet` (30_encoding.md R75); `low0`, `low1` and `flag` are the bits the block ignores
(bytes 0 and 1 bits 3..0, byte 3 bit 7). -/
structure ExpPacket where
  low0   : BitVec 4
  low1   : BitVec 4
  flag   : Bool
  ref    : BitVec 15
  cabins : Vector Cabin 16
deriving DecidableEq, Repr

/-- One constructor per row of spec/opcode_table.json. -/
inductive Instr
  /-- GET_INFO, R133. -/
  | getInfo
  /-- GET_HEALTH, R134. -/
  | getHealth
  /-- GET_SAMPLERATE, R135. -/
  | getSampleRate
  /-- SCAN, R136. -/
  | scan
  /-- EXPRESS_SCAN, R137. -/
  | expressScan
  /-- STOP_SCAN, R139: the device's stop command. -/
  | stopScan
  /-- RESET_DEV, R140: the device's reset command. -/
  | resetDev
  /-- SET_MOTOR_PWM, R138, with its 16-bit PWM value. -/
  | setMotorPwm (v : BitVec 16)
  /-- ENCODE_ANY, R141: a command frame of any other opcode or payload. -/
  | encodeAny (op : Byte) (payload : List Byte)
  /-- RESET, R107: the block's own reset. -/
  | reset
  /-- START, R105. -/
  | start (e : Expect)
  /-- STOP, R106. -/
  | stop
  /-- RX, R108: one inbound byte. -/
  | rx (b : Byte)
  /-- ENCODE, R109: opcode and payload list. -/
  | encode (op : Byte) (payload : List Byte)
  /-- XFAIL, R110. -/
  | xfail
  /-- HOST_OP_RESERVED, R102: a host word the block refuses, with whatever payload list came beside it. -/
  | hostOpReserved (w : HostWord) (payload : List Byte)
  /-- RESP_DESC, R156: a response descriptor. -/
  | respDesc (len : BitVec 30) (mode : BitVec 2) (dtype : Byte)
  /-- STD_UNIT, R170: one standard unit. -/
  | stdUnit (u : StdUnit)
  /-- EXP_PACKET, R190: one express packet. -/
  | expPacket (p : ExpPacket)
  /-- EXP_CABIN, R198: one cabin of an express packet. -/
  | expCabin (cab : Cabin)
deriving DecidableEq, Repr

end Sys2Proof
end

