-- ==== Sys2Proof/WellFormed.lean ====
section
/-! DEFINITION. Which terms of `Instr` are instructions: the payload bound of 40_host_interface.md R102, the frames
that are ENCODE_ANY and not one of the eight named commands (41_command_encoder.md R141), and the words that are
HOST_OP_RESERVED (R102, 30_encoding.md R79). -/

namespace Sys2Proof

/-- R109, R102: a payload of at most `MAX_PAYLOAD` bytes; unbounded when the parameter is not set (D29). -/
def payloadFits (c : Config) (p : List Byte) : Bool :=
  match c.maxPayload with
  | none => true
  | some n => decide (p.length ≤ n)

/-- The frames of R133 to R140: an opcode of the command table with the payload the table gives it. -/
def namedCommand (op : Byte) (p : List Byte) : Bool :=
  ((op == 0x50 || op == 0x52 || op == 0x59 || op == 0x20 || op == 0x25 || op == 0x40) && p.isEmpty)
    || (op == 0x82 && p == [0x00, 0x00, 0x00, 0x00, 0x00])
    || (op == 0xF0 && p.length == 2)

/-- R102: the words that are refused whatever payload comes with them. Said bit by bit, apart from the decoder's own
test, so that the two can be held against each other. -/
def reservedHostWord (w : HostWord) : Bool :=
  let tag := w.toNat / 4096
  let mbz := w.toNat / 1024 % 4
  let arg := w.toNat / 256 % 4
  let data := w.toNat % 256
  decide (6 ≤ tag) || decide (mbz ≠ 0) || (decide (tag ≠ 1) && decide (arg ≠ 0))
    || (decide (tag = 1) && decide (arg = 3)) || (decide (tag ≠ 3) && decide (tag ≠ 4) && decide (data ≠ 0))

/-- Whether a term is an instruction of the block under configuration `c`. -/
def Instr.wf (c : Config) : Instr → Bool
  | .getInfo => true
  | .getHealth => true
  | .getSampleRate => true
  | .scan => true
  | .expressScan => payloadFits c [0x00, 0x00, 0x00, 0x00, 0x00]
  | .stopScan => true
  | .resetDev => true
  | .setMotorPwm _ => payloadFits c [0x00, 0x00]
  | .encodeAny op p => payloadFits c p && !namedCommand op p
  | .reset => true
  | .start _ => true
  | .stop => true
  | .rx _ => true
  | .encode _ p => payloadFits c p
  | .xfail => true
  | .hostOpReserved w _ => reservedHostWord w
  | .respDesc _ _ _ => true
  | .stdUnit _ => true
  | .expPacket _ => true
  | .expCabin _ => true

end Sys2Proof
end

