-- ==== Sys2Proof/Decode.lean ====
section
/-! DEFINITION. What arrives at the block's port, the decoder from it to an instruction, and the encoder back, both
written from 30_encoding.md (R70 to R79) and spec/opcode_table.json. The decoder is total and rejects by name. -/

namespace Sys2Proof

/-- The four inbound units of R70 that have a row of the opcode table. -/
inductive UnitFormat
  | respDesc
  | stdUnit
  | expPacket
  | expCabin
deriving DecidableEq, Repr

/-- One item at the port (log 1). `hostOp` is a host operation as R77 gives it, a word and the payload list beside
it. `command` and `feed` are the pseudo-operations CMD and FEED of R80 with their operand written as the table
encodes it: the frame that is asked for, and the bytes of one inbound unit, whose format only its position tells
(R78). -/
inductive Transaction
  | hostOp (w : HostWord) (payload : List Byte)
  | command (frame : List Byte)
  | feed (f : UnitFormat) (bytes : List Byte)
deriving DecidableEq, Repr

/-- Why a host operation is Refused, one name per case of R102. -/
inductive HostOpRefusal
  /-- tag 6 to 15. -/
  | reservedTag
  /-- `w[11:10]` is not 0. -/
  | reservedBits
  /-- `arg` is not 0 and the tag is not START's. -/
  | argNotZero
  /-- START with `arg` = 3. -/
  | startArgReserved
  /-- `data` is not 0 and the tag is neither RX's nor ENCODE's. -/
  | dataNotZero
  /-- ENCODE's payload is longer than `MAX_PAYLOAD`. -/
  | payloadTooLong
deriving DecidableEq, Repr

/-- Why an item at the port is no instruction. Each name is raised by `decode` alone. -/
inductive DecodeError
  /-- a payload list beside a word that is not ENCODE's (R77: only ENCODE carries one). -/
  | payloadWithoutEncode
  /-- ENCODE or a command frame with a payload longer than `MAX_PAYLOAD` (R102). -/
  | payloadTooLong
  /-- a command frame of fewer than 3 bytes (R71). -/
  | frameTooShort
  /-- a command frame that does not begin with `CMD_SYNC` (R71). -/
  | frameBadSync
  /-- a command frame whose last byte is not the XOR-fold of the others (R71). -/
  | frameBadChecksum
  /-- an inbound unit whose length is not its format's (R70). -/
  | unitWrongLength
  /-- a descriptor whose sync pair is wrong (R73). -/
  | descriptorBadSync
  /-- an express packet whose marker nibbles are wrong (R75). -/
  | packetBadMarker
deriving DecidableEq, Repr

/-! ## Helpers both directions use -/

/-- `{hi, lo}`: concatenation, hi above lo (R10). -/
def join {n m k : Nat} (hi : BitVec n) (lo : BitVec m) (h : n + m = k := by rfl) : BitVec k := (hi ++ lo).cast h

/-- One bit as a one-bit vector. -/
def flag (b : Bool) : BitVec 1 := BitVec.ofBool b

/-- XOR-fold of a list of bytes, 0 for the empty list (R10). -/
def xorFold : List Byte → Byte
  | [] => 0
  | b :: bs => b ^^^ xorFold bs

/-- `Encode(op, p)`: the command frame of R71, R130. -/
def commandFrame (c : Config) (op : Byte) (p : List Byte) : List Byte :=
  [c.cmdSync, op] ++ p ++ [xorFold ([c.cmdSync, op] ++ p)]

/-- The opcode and payload each command of R133 to R141 is built from (R138 sends the low byte first, D12). -/
def Instr.commandParts : Instr → Option (Byte × List Byte)
  | .getInfo => some (0x50, [])
  | .getHealth => some (0x52, [])
  | .getSampleRate => some (0x59, [])
  | .scan => some (0x20, [])
  | .expressScan => some (0x82, [0x00, 0x00, 0x00, 0x00, 0x00])
  | .stopScan => some (0x25, [])
  | .resetDev => some (0x40, [])
  | .setMotorPwm v => some (0xF0, [v.extractLsb' 0 8, v.extractLsb' 8 8])
  | .encodeAny op p => some (op, p)
  | .reset => none
  | .start _ => none
  | .stop => none
  | .rx _ => none
  | .encode _ _ => none
  | .xfail => none
  | .hostOpReserved _ _ => none
  | .respDesc _ _ _ => none
  | .stdUnit _ => none
  | .expPacket _ => none
  | .expCabin _ => none

/-! ## Decoding -/

/-- The fields of a host word (R77, R101). -/
def hostTag (w : HostWord) : BitVec 4 := w.extractLsb' 12 4
def hostZero (w : HostWord) : BitVec 2 := w.extractLsb' 10 2
def hostArg (w : HostWord) : BitVec 2 := w.extractLsb' 8 2
def hostData (w : HostWord) : Byte := w.extractLsb' 0 8

/-- R102 for a word alone: why it is refused, or `none`. DESIGN CHOICE (log 19): R102 lists its cases without an order, so
for a word that meets several the reason is the first of tag, reserved bits, argument, START's argument, data. -/
def hostWordRefusal (w : HostWord) : Option HostOpRefusal :=
  if 6 ≤ (hostTag w).toNat then some .reservedTag
  else if hostZero w ≠ 0 then some .reservedBits
  else if hostTag w ≠ 1 ∧ hostArg w ≠ 0 then some .argNotZero
  else if hostTag w = 1 ∧ hostArg w = 3 then some .startArgReserved
  else if hostTag w ≠ 3 ∧ hostTag w ≠ 4 ∧ hostData w ≠ 0 then some .dataNotZero
  else none

/-- START's argument (R77): 0 SINGLE, 1 STD, 2 EXP. The value 3 is refused before this is asked. -/
def expectOfArg (a : BitVec 2) : Expect :=
  if a = 0 then .single else if a = 1 then .std else .exp

/-- R101: the dispatch on the tag of a word that is not refused. -/
def decodeHostOp (c : Config) (w : HostWord) (p : List Byte) : Except DecodeError Instr :=
  if (hostWordRefusal w).isSome then .ok (.hostOpReserved w p)
  else if hostTag w = 4 then
    if payloadFits c p then .ok (.encode (hostData w) p) else .error .payloadTooLong
  else if p ≠ [] then .error .payloadWithoutEncode
  else if hostTag w = 0 then .ok .reset
  else if hostTag w = 1 then .ok (.start (expectOfArg (hostArg w)))
  else if hostTag w = 2 then .ok .stop
  else if hostTag w = 3 then .ok (.rx (hostData w))
  else .ok .xfail

/-- The command a frame's opcode and payload stand for (R78): a row of the command table, else ENCODE_ANY. -/
def commandOf (op : Byte) (p : List Byte) : Instr :=
  if op = 0x50 ∧ p = [] then .getInfo
  else if op = 0x52 ∧ p = [] then .getHealth
  else if op = 0x59 ∧ p = [] then .getSampleRate
  else if op = 0x20 ∧ p = [] then .scan
  else if op = 0x25 ∧ p = [] then .stopScan
  else if op = 0x40 ∧ p = [] then .resetDev
  else if op = 0x82 ∧ p = [0x00, 0x00, 0x00, 0x00, 0x00] then .expressScan
  else if op = 0xF0 then
    match p with
    | [lo, hi] => .setMotorPwm (join hi lo)
    | _ => .encodeAny op p
  else .encodeAny op p

/-- A `cmd_frame` (R71): sync byte, opcode, payload, checksum over all bytes before it. -/
def decodeCommand (c : Config) (frame : List Byte) : Except DecodeError Instr :=
  match frame with
  | sync :: op :: b :: bs =>
    let p := (b :: bs).dropLast
    if sync ≠ c.cmdSync then .error .frameBadSync
    else if (b :: bs).getLast (by simp) ≠ xorFold ([sync, op] ++ p) then .error .frameBadChecksum
    else if payloadFits c p then .ok (commandOf op p)
    else .error .payloadTooLong
  | _ => .error .frameTooShort

/-- A `resp_desc` (R73). -/
def decodeRespDesc (c : Config) (bytes : List Byte) : Except DecodeError Instr :=
  match bytes with
  | [b0, b1, b2, b3, b4, b5, b6] =>
    if b0 ≠ c.hdrSync0 ∨ b1 ≠ c.hdrSync1 then .error .descriptorBadSync
    else .ok (.respDesc (join (join (join (b5.extractLsb' 0 6) b4) b3) b2) (b5.extractLsb' 6 2) b6)
  | _ => .error .unitWrongLength

/-- The fields of a `std_unit` (R74). -/
def decodeStdUnit (b0 b1 b2 b3 b4 : Byte) : StdUnit :=
  { quality := b0.extractLsb' 2 6
    sbar := b0.getLsbD 1
    s := b0.getLsbD 0
    angle := join b2 (b1.extractLsb' 1 7)
    chk := b1.getLsbD 0
    dist := join b4 b3 }

/-- The two samples of an `exp_cabin` (R76). -/
def decodeCabin (b0 b1 b2 b3 b4 : Byte) : Cabin :=
  { s1 := { dist := join b1 (b0.extractLsb' 2 6), sgn := b0.getLsbD 1
            mag := join (b0.extractLsb' 0 1) (b4.extractLsb' 0 4) }
    s2 := { dist := join b3 (b2.extractLsb' 2 6), sgn := b2.getLsbD 1
            mag := join (b2.extractLsb' 0 1) (b4.extractLsb' 4 4) } }

/-- The cabins of a packet body, five bytes each (R75). -/
def decodeCabins : List Byte → List Cabin
  | b0 :: b1 :: b2 :: b3 :: b4 :: bs => decodeCabin b0 b1 b2 b3 b4 :: decodeCabins bs
  | _ => []

/-- An `exp_packet` (R75): 84 bytes, marker nibbles in the high halves of bytes 0 and 1. -/
def decodeExpPacket (c : Config) (bytes : List Byte) : Except DecodeError Instr :=
  match bytes with
  | b0 :: b1 :: b2 :: b3 :: body =>
    if h : (decodeCabins body).length = 16 ∧ body.length = 80 then
      if b0.extractLsb' 4 4 ≠ c.syncNib1 ∨ b1.extractLsb' 4 4 ≠ c.syncNib2 then .error .packetBadMarker
      else .ok (.expPacket
        { low0 := b0.extractLsb' 0 4
          low1 := b1.extractLsb' 0 4
          flag := b3.getLsbD 7
          ref := join (b3.extractLsb' 0 7) b2
          cabins := ⟨(decodeCabins body).toArray, by simpa using h.1⟩ })
    else .error .unitWrongLength
  | _ => .error .unitWrongLength

/-- One inbound unit, by its format. -/
def decodeUnit (c : Config) (f : UnitFormat) (bytes : List Byte) : Except DecodeError Instr :=
  match f with
  | .respDesc => decodeRespDesc c bytes
  | .stdUnit =>
    match bytes with
    | [b0, b1, b2, b3, b4] => .ok (.stdUnit (decodeStdUnit b0 b1 b2 b3 b4))
    | _ => .error .unitWrongLength
  | .expPacket => decodeExpPacket c bytes
  | .expCabin =>
    match bytes with
    | [b0, b1, b2, b3, b4] => .ok (.expCabin (decodeCabin b0 b1 b2 b3 b4))
    | _ => .error .unitWrongLength

/-- The decoder: what one item at the port asks the block to do. -/
def decode (c : Config) : Transaction → Except DecodeError Instr
  | .hostOp w p => decodeHostOp c w p
  | .command frame => decodeCommand c frame
  | .feed f bytes => decodeUnit c f bytes

/-! ## Encoding -/

/-- A host word from its fields (R77). -/
def hostWord (tag : BitVec 4) (arg : BitVec 2) (data : Byte) : HostWord :=
  join (join (join tag (0 : BitVec 2)) arg) data

/-- The code of an expected kind, as START's argument and `EXPECT` hold it (R23, R77). -/
def Expect.code : Expect → BitVec 2
  | .single => 0
  | .std => 1
  | .exp => 2

/-- The bytes of a `resp_desc` (R73). -/
def encodeRespDesc (c : Config) (len : BitVec 30) (mode : BitVec 2) (dtype : Byte) : List Byte :=
  [c.hdrSync0, c.hdrSync1, len.extractLsb' 0 8, len.extractLsb' 8 8, len.extractLsb' 16 8,
    join mode (len.extractLsb' 24 6), dtype]

/-- The bytes of a `std_unit` (R74). -/
def encodeStdUnit (u : StdUnit) : List Byte :=
  [join (join u.quality (flag u.sbar)) (flag u.s),
    join (u.angle.extractLsb' 0 7) (flag u.chk),
    u.angle.extractLsb' 7 8,
    u.dist.extractLsb' 0 8,
    u.dist.extractLsb' 8 8]

/-- The bytes of an `exp_cabin` (R76). -/
def encodeCabin (cab : Cabin) : List Byte :=
  [join (join (cab.s1.dist.extractLsb' 0 6) (flag cab.s1.sgn)) (cab.s1.mag.extractLsb' 4 1),
    cab.s1.dist.extractLsb' 6 8,
    join (join (cab.s2.dist.extractLsb' 0 6) (flag cab.s2.sgn)) (cab.s2.mag.extractLsb' 4 1),
    cab.s2.dist.extractLsb' 6 8,
    join (cab.s2.mag.extractLsb' 0 4) (cab.s1.mag.extractLsb' 0 4)]

/-- The first four bytes of an `exp_packet` (R75). -/
def encodePacketHead (c : Config) (p : ExpPacket) : List Byte :=
  [join c.syncNib1 p.low0, join c.syncNib2 p.low1, p.ref.extractLsb' 0 8,
    join (flag p.flag) (p.ref.extractLsb' 8 7)]

/-- The 84 bytes of an `exp_packet` (R75). -/
def encodeExpPacket (c : Config) (p : ExpPacket) : List Byte :=
  encodePacketHead c p ++ p.cabins.toList.flatMap encodeCabin

/-- The encoder: the item at the port that asks for an instruction. -/
def encode (c : Config) : Instr → Transaction
  | .getInfo => .command (commandFrame c 0x50 [])
  | .getHealth => .command (commandFrame c 0x52 [])
  | .getSampleRate => .command (commandFrame c 0x59 [])
  | .scan => .command (commandFrame c 0x20 [])
  | .expressScan => .command (commandFrame c 0x82 [0x00, 0x00, 0x00, 0x00, 0x00])
  | .stopScan => .command (commandFrame c 0x25 [])
  | .resetDev => .command (commandFrame c 0x40 [])
  | .setMotorPwm v => .command (commandFrame c 0xF0 [v.extractLsb' 0 8, v.extractLsb' 8 8])
  | .encodeAny op p => .command (commandFrame c op p)
  | .reset => .hostOp (hostWord 0 0 0) []
  | .start e => .hostOp (hostWord 1 e.code 0) []
  | .stop => .hostOp (hostWord 2 0 0) []
  | .rx b => .hostOp (hostWord 3 0 b) []
  | .encode op p => .hostOp (hostWord 4 0 op) p
  | .xfail => .hostOp (hostWord 5 0 0) []
  | .hostOpReserved w p => .hostOp w p
  | .respDesc len mode dtype => .feed .respDesc (encodeRespDesc c len mode dtype)
  | .stdUnit u => .feed .stdUnit (encodeStdUnit u)
  | .expPacket p => .feed .expPacket (encodeExpPacket c p)
  | .expCabin cab => .feed .expCabin (encodeCabin cab)

/-! ## The opcode table's numbering -/

/-- The `n` bytes of a number, most significant first: spec/opcode_table.json reads a row's bits as one number, so its
first byte on the wire is the number's highest (98_reader.md; GET_INFO's 0xA550F5 is `A5 50 F5`). -/
def bytesOfNat : Nat → Nat → List Byte
  | 0, _ => []
  | n + 1, w => BitVec.ofNat 8 (w >>> (8 * n)) :: bytesOfNat n w

/-- The item at the port that a row's `nbits` bits `w` stand for (log 2). 16 bits are a host word; 56 bits that begin
with the sync pair a descriptor; 672 bits an express packet; everything else a command frame, and 40 bits that are no
command frame a standard unit. -/
def tableTransaction (nbits w : Nat) : Transaction :=
  let bytes := bytesOfNat (nbits / 8) w
  if nbits = 16 then .hostOp (BitVec.ofNat 16 w) []
  else if nbits = 672 then .feed .expPacket bytes
  else if nbits = 56 ∧ bytes.take 2 = [0xA5, 0x5A] then .feed .respDesc bytes
  else if nbits = 40 ∧ (decodeCommand Config.rpd bytes).toOption = none then .feed .stdUnit bytes
  else .command bytes

/-- The instruction the decoder reads from a row's bits. -/
def decodeTableWord (nbits w : Nat) : Option Instr := (decode Config.rpd (tableTransaction nbits w)).toOption

end Sys2Proof
end

