-- ==== Sys2Proof/Machine/State.lean ====
section
/-! DEFINITION. The state of the block (10_state.md R20 to R35), its port and its event stream (40_host_interface.md
R100, R103, R104), the state of the reference consumer (45_scan_aggregator.md R230), the reasons a step can stop, and
the state after reset (R35, R280). -/

namespace Sys2Proof.Machine

/-! ## Control state -/

/-- `MODE`, R22: which sub-unit an RX byte goes to. The values 5 to 7 are never written and have no name (I1). -/
inductive Mode
  | idle
  | hdr
  | payload
  | std
  | exp
deriving DecidableEq, Repr

/-- The 3-bit value of `MODE` (R22). -/
def Mode.code : Mode → BitVec 3
  | .idle => 0
  | .hdr => 1
  | .payload => 2
  | .std => 3
  | .exp => 4

/-- `XD_PH`, R28. The value 3 is never written and has no name (I1). -/
inductive Phase
  | hunt0
  | hunt1
  | body
deriving DecidableEq, Repr

/-- The 2-bit value of `XD_PH` (R28). -/
def Phase.code : Phase → BitVec 2
  | .hunt0 => 0
  | .hunt1 => 1
  | .body => 2

/-! ## Events -/

/-- The source field of Boundary and ZeroReturn (R104). -/
inductive Src
  | std
  | exp
deriving DecidableEq, Repr

/-- The source field of InvalidSync (R104). -/
inductive SyncSrc
  | hdr
  | exp
deriving DecidableEq, Repr

/-- The source field of Truncated (R104). -/
inductive TruncSrc
  | hdr
  | payload
deriving DecidableEq, Repr

/-- Why a session ended (R104, R111). -/
inductive EndReason
  | stop
  | restart
  | reset
  | xfail
  | fatal
  | complete
deriving DecidableEq, Repr

/-- The events of R104, in the order of their codes. -/
inductive Event
  | txFrame (bytes : List Byte)
  | descriptor (len : BitVec 30) (mode : BitVec 2) (dtype : Byte)
  | payloadByte (idx : BitVec 30) (b : Byte)
  | payloadEnd (len : BitVec 30)
  | boundary (src : Src)
  | stdSample (angleQ6 : BitVec 15) (distQ2 : BitVec 16) (quality : BitVec 6)
  | expSample (angleQ11 : BitVec 20) (distMm : BitVec 14)
  | zeroReturn (src : Src)
  | sessionStart (expect : Expect)
  | sessionEnd (reason : EndReason)
  | invalidSync (src : SyncSrc)
  | truncated (src : TruncSrc) (got : BitVec 30)
  | unexpectedResponse (len : BitVec 30) (dtype : Byte) (expect : Expect)
  | lossOfSync (discarded : BitVec 7)
  | transportFailure
  | stdCheckFail (byte0 : Byte)
deriving DecidableEq, Repr

/-- The event codes of R104. -/
def Event.code : Event → Byte
  | .txFrame _ => 0x00
  | .descriptor _ _ _ => 0x01
  | .payloadByte _ _ => 0x02
  | .payloadEnd _ => 0x03
  | .boundary _ => 0x04
  | .stdSample _ _ _ => 0x05
  | .expSample _ _ => 0x06
  | .zeroReturn _ => 0x07
  | .sessionStart _ => 0x08
  | .sessionEnd _ => 0x09
  | .invalidSync _ => 0x10
  | .truncated _ _ => 0x11
  | .unexpectedResponse _ _ _ => 0x12
  | .lossOfSync _ => 0x13
  | .transportFailure => 0x14
  | .stdCheckFail _ => 0x15

/-- The error kinds are the codes 0x10 and above (R104, R251). -/
def Event.isError (e : Event) : Bool := decide (0x10 ≤ e.code.toNat)

/-! ## Sub-unit registers -/

/-- ResponseHeaderParser, R25: `HP_CNT` and `HP_BUF[0..6]`. -/
structure HeaderRegs where
  cnt : BitVec 3
  buf : Vector Byte 7
deriving DecidableEq, Repr

/-- Single-response payload, R26: `PL_LEN` and `PL_IDX`. -/
structure PayloadRegs where
  len : BitVec 30
  idx : BitVec 30
deriving DecidableEq, Repr

/-- StandardScanDecoder, R27: `SD_POS`, `SD_Q`, `SD_ALO`, `SD_ANG`, `SD_DLO`. -/
structure StdRegs where
  pos : BitVec 3
  q   : BitVec 6
  alo : BitVec 7
  ang : BitVec 15
  dlo : BitVec 8
deriving DecidableEq, Repr

/-- ExpressScanDecoder, R28 (`XD_PH`, `XD_POS`, `XD_DISC`, `XD_EPI`, `XD_LOS`) and R29 (`XD_REFLO`, `XD_REF`,
`XD_PREV`, `XD_PVALID`, `XD_CAB`, `XD_CUR`, `XD_PEND`). -/
structure ExpRegs where
  ph     : Phase
  pos    : BitVec 7
  disc   : BitVec 7
  epi    : Bool
  los    : Bool
  refLo  : BitVec 8
  ref    : BitVec 15
  prev   : BitVec 15
  pvalid : Bool
  cab    : Vector Byte 4
  cur    : Vector Pair 32
  pend   : Vector Pair 32
deriving DecidableEq, Repr

/-- The reset value of each sub-unit, all zero, at power-on and at session start alike (R35). -/
def HeaderRegs.zero : HeaderRegs := { cnt := 0, buf := Vector.replicate 7 0 }
def PayloadRegs.zero : PayloadRegs := { len := 0, idx := 0 }
def StdRegs.zero : StdRegs := { pos := 0, q := 0, alo := 0, ang := 0, dlo := 0 }
def Pair.zero : Pair := { dist := 0, sgn := false, mag := 0 }
def ExpRegs.zero : ExpRegs :=
  { ph := .hunt0, pos := 0, disc := 0, epi := false, los := false, refLo := 0, ref := 0, prev := 0, pvalid := false,
    cab := Vector.replicate 4 0, cur := Vector.replicate 32 Pair.zero, pend := Vector.replicate 32 Pair.zero }

/-! ## The reference consumer -/

/-- The source's Sample (R231): angle in radians, `toRad` of exact degrees (log 6), distance in metres, quality or none. -/
structure Sample where
  angle    : Radians
  distance : Rat
  quality  : Option (BitVec 6)
deriving DecidableEq, Repr

/-- The currently open scan (R230). -/
structure OpenScan where
  index     : Nat
  samples   : List Sample
  zeroCount : Nat
deriving DecidableEq, Repr

/-- A delivered Scan (R232). -/
structure Scan where
  index       : Nat
  samples     : List Sample
  completed   : Nat
  zeroReturns : Nat
  rateHz      : Option Rat
deriving DecidableEq, Repr

/-- The consumer's state: the four elements of R230, the scans delivered so far, and two counters of the model's own,
how many events it has read and how often it has read its clock (log 4, log 5). -/
structure Consumer where
  openScan   : OpenScan
  lastT      : Rat
  total      : Nat
  active     : Bool
  delivered  : List Scan
  eventsRead : Nat
  clockReads : Nat
deriving DecidableEq, Repr

/-- The consumer before any event (log 7). -/
def Consumer.initial : Consumer :=
  { openScan := { index := 0, samples := [], zeroCount := 0 }, lastT := 0, total := 0, active := false,
    delivered := [], eventsRead := 0, clockReads := 0 }

/-! ## The whole state -/

/-- Every element of R35, then the block's surroundings: what waits at its port, the event stream so far (oldest
first, R103) and the reference consumer. -/
structure State where
  mode     : Mode
  expect   : Expect
  hp       : HeaderRegs
  pl       : PayloadRegs
  sd       : StdRegs
  xd       : ExpRegs
  port     : List Transaction
  events   : List Event
  consumer : Consumer
deriving DecidableEq, Repr

/-- Power-on: every element of R35 at its power-on value, nothing at the port, no event yet. -/
def State.reset : State :=
  { mode := .idle, expect := .single, hp := .zero, pl := .zero, sd := .zero, xd := .zero
    port := [], events := [], consumer := .initial }

/-! ## How a step can stop -/

/-- Where the machine stops with a fault. 60_exceptions.md R250 gives the block no fault state: each of these is a
register outside the range 10_state.md gives it, which no rule writes and no run from reset reaches
(93_implementation_defined.md's treatment `fault`; log 8). All are safe. -/
inductive Fault
  /-- Raised by RX in HDR with `HP_CNT` = 7: `HP_BUF[7]` does not exist (R25). Safe. -/
  | headerOverrun
  /-- Raised by RX in PAYLOAD with `PL_IDX` at its largest value: its successor does not fit 30 bits (R26). Safe. -/
  | payloadIndexOverflow
  /-- Raised by RX in STD with `SD_POS` in 5 to 7 (R27). Safe. -/
  | stdOffsetOutOfRange
  /-- Raised by RX in EXP, BODY, with `XD_POS` outside 2 to 83 (R28). Safe. -/
  | expOffsetOutOfRange
deriving DecidableEq, Repr

/-- Why a step has no meaning. -/
inductive Refusal
  /-- Raised by `exec` alone, for an instruction that has no meaning yet. Safe. -/
  | notModelled (mnemonic : String)
  /-- Raised by HOST_OP_RESERVED, and by ENCODE and the commands when the payload is longer than `MAX_PAYLOAD`: the
  host operation is Refused, with no next state and no events (R102). Safe. -/
  | hostOp (why : HostOpRefusal)
  /-- Raised by HOST_OP_RESERVED when its word is none the block refuses, so that the term is no instruction. Safe. -/
  | illFormed
  /-- Raised by `step` when what stands at the port is no instruction. Safe. -/
  | undecodable (why : DecodeError)
deriving DecidableEq, Repr

/-- What an operation on the state answers. -/
abbrev Result := Host.Outcome State Fault Refusal

end Sys2Proof.Machine
end

