-- ==== Sys2Proof/Machine/Operands.lean ====
section
/-! DEFINITION. Every value the block assembles from the bytes of a unit (20_memory.md R52, R53): the descriptor's
fields, the standard angle and distance, the express reference angle, the cabin fields, and the interpolated angle.
Written from the formulas of the family rules, shifts and ORs as they stand there. -/

namespace Sys2Proof.Machine

/-! ## Descriptor, 42_response_header.md R150 to R154 -/

/-- A parsed descriptor (R150). -/
structure Descriptor where
  len   : BitVec 30
  mode  : BitVec 2
  dtype : Byte
deriving DecidableEq, Repr

/-- The length/mode word W, little-endian over bytes 2 to 5 (R150, D6). -/
def lengthModeWord (b2 b3 b4 b5 : Byte) : BitVec 32 :=
  b2.zeroExtend 32 ||| (b3.zeroExtend 32 <<< 8) ||| (b4.zeroExtend 32 <<< 16) ||| (b5.zeroExtend 32 <<< 24)

/-- The fields after the sync pair: len = W[29:0], mode = W[31:30], dtype = byte 6 (R152 to R154). -/
def descriptorOf (b2 b3 b4 b5 b6 : Byte) : Descriptor :=
  { len := (lengthModeWord b2 b3 b4 b5).extractLsb' 0 30
    mode := (lengthModeWord b2 b3 b4 b5).extractLsb' 30 2
    dtype := b6 }

/-- What `ParseHeader` answers (R150). -/
inductive ParseResult
  | descriptor (d : Descriptor)
  | truncated
  | invalidSync
deriving DecidableEq, Repr

/-- `ParseHeader(buf)` (R150): fewer than 7 bytes first, then the sync pair (R151), then the fields; bytes after the
seventh are not read. -/
def parseHeader (c : Config) (buf : List Byte) : ParseResult :=
  match buf with
  | b0 :: b1 :: b2 :: b3 :: b4 :: b5 :: b6 :: _ =>
    if b0 ≠ c.hdrSync0 ∨ b1 ≠ c.hdrSync1 then .invalidSync else .descriptor (descriptorOf b2 b3 b4 b5 b6)
  | _ => .truncated

/-- `CheckExpected(e, r)` (R157): length and data-type must both match for a stream; nothing is checked for a single
response, and send-mode never. -/
def checkExpected (c : Config) (e : Expect) (d : Descriptor) : Bool :=
  match e with
  | .std => d.len.toNat == c.stdUnit && d.dtype == c.stdType
  | .exp => d.len.toNat == c.expUnit && d.dtype == c.expType
  | .single => true

/-! ## Standard unit, 43_standard_scan.md R171 to R175 -/

/-- `q = b >> 2` (R171). -/
def stdQuality (b : Byte) : BitVec 6 := (b >>> 2).extractLsb' 0 6

/-- `b >> 1`, the low 7 bits of the angle (R172, D13). -/
def stdAngleLow (b : Byte) : BitVec 7 := (b >>> 1).extractLsb' 0 7

/-- `(b << 7) | SD_ALO` (R173). -/
def stdAngle (b : Byte) (alo : BitVec 7) : BitVec 15 := (b.zeroExtend 15 <<< 7) ||| alo.zeroExtend 15

/-- `(b << 8) | SD_DLO` (R175). -/
def stdDistance (b dlo : Byte) : BitVec 16 := (b.zeroExtend 16 <<< 8) ||| dlo.zeroExtend 16

/-! ## Express packet, 44_express_scan.md R192 to R198 -/

/-- The high nibble `b[7:4]` (R192). -/
def highNibble (b : Byte) : BitVec 4 := b.extractLsb' 4 4

/-- `(b[6:0] << 8) | XD_REFLO`; b[7] is ignored (R193). -/
def refAngle (b refLo : Byte) : BitVec 15 := ((b.extractLsb' 0 7).zeroExtend 15 <<< 8) ||| refLo.zeroExtend 15

/-- `(hi << 6) | (lo >> 2)`, a cabin distance (R196). -/
def cabinDist (lo hi : Byte) : BitVec 14 := (hi.zeroExtend 14 <<< 6) ||| (lo.zeroExtend 14 >>> 2)

/-- `(lo[0] << 4) | nib`, a cabin delta's magnitude (R197). -/
def cabinMag (lo : Byte) (nib : BitVec 4) : BitVec 5 :=
  ((lo.extractLsb' 0 1).zeroExtend 5 <<< 4) ||| nib.zeroExtend 5

/-- Sample 1 of a cabin, from b0, b1 and b4 (R196, R197). -/
def cabinFirst (b0 b1 b4 : Byte) : Pair :=
  { dist := cabinDist b0 b1, sgn := b0.getLsbD 1, mag := cabinMag b0 (b4.extractLsb' 0 4) }

/-- Sample 2 of a cabin, from b2, b3 and b4 (R196, R197). -/
def cabinSecond (b2 b3 b4 : Byte) : Pair :=
  { dist := cabinDist b2 b3, sgn := b2.getLsbD 1, mag := cabinMag b2 (b4.extractLsb' 4 4) }

/-- The signed delta in units of 1/8 degree (R194, R197). -/
def deltaQ3 (e : Pair) : Int := if e.sgn then -(e.mag.toNat : Int) else (e.mag.toNat : Int)

/-- `dq6 = ref - prev`, with a full turn added once if negative (R194). -/
def deltaQ6 (c : Config) (prev ref : BitVec 15) : Int :=
  let d : Int := (ref.toNat : Int) - prev.toNat
  if d < 0 then d + c.degQ6Full else d

/-- The interpolated angle `a` of pending entry `i`, before reduction (R194): the previous angle, `i` times Δ over
`INTERP_DIV`, less the delta, each in 1/2048 degree (q6 · 32, 1/8 degree · 256). -/
def interpolated (c : Config) (prev ref : BitVec 15) (i : Nat) (e : Pair) : Int :=
  (prev.toNat : Int) * 32 + deltaQ6 c prev ref * 32 * i / c.interpDiv - deltaQ3 e * 256

/-- `angle_q11 = a mod 737280`, Euclidean (R10, R194). -/
def angleQ11 (c : Config) (a : Int) : BitVec 20 := BitVec.ofNat 20 (a % c.degQ11Full).toNat

end Sys2Proof.Machine
end

