-- ==== Sys2Proof/Machine/Flags.lean ====
section
/-! DEFINITION. The one-bit conditions of the block (10_state.md R30): the standard new-scan flag and its complement
bit, read and not stored (43_standard_scan.md R171), the express boundary condition (44_express_scan.md R193), and the
stored flags `XD_EPI`, `XD_LOS` and `XD_PVALID` (R191, R192, R200). There are no condition codes. -/

namespace Sys2Proof.Machine

/-- The event of a standard offset-0 byte (R171): S is bit 0 and its complement bit 1 (D14). Equal bits are
StdCheckFail and the flag counts as 0; else S = 1 is a boundary. -/
def newScanEvents (b : Byte) : List Event :=
  if b.getLsbD 0 = b.getLsbD 1 then [.stdCheckFail b]
  else if b.getLsbD 0 then [.boundary .std]
  else []

/-- The reference angle went down (R193). -/
def wrapped (prev ref : BitVec 15) : Bool := decide (ref.toNat < prev.toNat)

/-- `XD_DISC` after `n` more discarded bytes, saturating at `LOS_LIMIT` + 1 (R191). -/
def discardCount (c : Config) (n : Nat) (x : ExpRegs) : Nat := min (x.disc.toNat + n) (c.losLimit + 1)

/-- The registers after `Discard(n)` (R191): the episode is open, the count saturated, and `XD_LOS` set once the
count exceeds `LOS_LIMIT`. -/
def discardRegs (c : Config) (n : Nat) (x : ExpRegs) : ExpRegs :=
  { x with
    epi := true
    disc := BitVec.ofNat 7 (discardCount c n x)
    los := x.los || decide (c.losLimit < discardCount c n x) }

/-- The events of `Discard(n)` (R191): InvalidSync at the first discard of an episode, LossOfSync when the count first
exceeds `LOS_LIMIT`. -/
def discardEvents (c : Config) (n : Nat) (x : ExpRegs) : List Event :=
  (if x.epi then [] else [.invalidSync .exp])
    ++ (if c.losLimit < discardCount c n x ∧ x.los = false
        then [.lossOfSync (BitVec.ofNat 7 (discardCount c n x))] else [])

/-- Sync acquired (R192): the packet body begins at offset 2 and the episode, if any, ends. -/
def acquireSync (x : ExpRegs) : ExpRegs :=
  { x with ph := .body, pos := 2, epi := false, disc := 0, los := false }

end Sys2Proof.Machine
end

