-- ==== Sys2Proof/Machine/Ops.lean ====
section
/-! DEFINITION. The named operations over the state that the meanings share: emitting events, ending a session and
raising a fatal error (the block's whole exception mechanism, 60_exceptions.md R250 to R258), setting every register to
its reset or session-start value, sending a command frame, and the four byte-serial units with their dispatch
(40_host_interface.md R108). Each takes the configuration (00_scope.md R12). -/

namespace Sys2Proof.Machine

/-! ## Events and sequencing -/

/-- Append events, in order, to the event stream (R11, R103). -/
def State.emits (es : List Event) (s : State) : State := { s with events := s.events ++ es }

/-- `emit(E)`, and `raise E` for an error kind (R11). -/
def State.emit (e : Event) (s : State) : State := s.emits [e]

/-- Go on from a next state; a fault or a refusal stands. -/
def andThen (r : Result) (f : State → Result) : Result :=
  match r with
  | .next s => f s
  | .fault e => .fault e
  | .refused e => .refused e

/-! ## Ending a session -/

/-- The events of `AbortSession(reason)` (R111): nothing in IDLE; Truncated for a descriptor of fewer than 7 bytes or
a payload cut short; then SessionEnd. A stream's partial data goes silently. -/
def abortEvents (c : Config) (r : EndReason) (s : State) : List Event :=
  match s.mode with
  | .idle => []
  | .hdr => (if s.hp.cnt.toNat < c.hdrLen then [.truncated .hdr (s.hp.cnt.zeroExtend 30)] else []) ++ [.sessionEnd r]
  | .payload => (if r = .complete then [] else [.truncated .payload s.pl.idx]) ++ [.sessionEnd r]
  | .std => [.sessionEnd r]
  | .exp => [.sessionEnd r]

/-- `AbortSession(reason)` (R111): those events, and MODE becomes IDLE. Nothing else changes. -/
def abortSession (c : Config) (r : EndReason) (s : State) : State :=
  { s with mode := .idle, events := s.events ++ abortEvents c r s }

/-- TAKING AN EXCEPTION. A fatal error (R257): the error event, then the end of the session. Nothing is saved, there is
no vector, and the block waits in IDLE. There is no return from it (R258): START begins a new session. -/
def raiseFatal (c : Config) (e : Event) (r : EndReason) (s : State) : State := abortSession c r (s.emit e)

/-! ## Whole-register-file writes, R35 -/

/-- Every element of R35 at its power-on value. -/
def State.powerOn (s : State) : State :=
  { s with mode := .idle, expect := .single, hp := .zero, pl := .zero, sd := .zero, xd := .zero }

/-- Every element of R35 at its session-start value for kind `e` (R105, R281). -/
def State.sessionStart (e : Expect) (s : State) : State :=
  { s with mode := .hdr, expect := e, hp := .zero, pl := .zero, sd := .zero, xd := .zero }

/-! ## Sending a command frame, R109 -/

/-- ENCODE's effect: `emit(TxFrame(Encode(op, p)))`, and no register changes (R109, R143). A payload longer than
`MAX_PAYLOAD` is Refused (R102). -/
def sendFrame (c : Config) (op : Byte) (p : List Byte) (s : State) : Result :=
  if payloadFits c p then .next (s.emit (.txFrame (commandFrame c op p))) else .refused (.hostOp .payloadTooLong)

/-! ## ResponseHeaderParser, 42_response_header.md -/

/-- A descriptor that meets the expectation, routed on `EXPECT` (R156). -/
def routeDescriptor (c : Config) (d : Descriptor) (s : State) : State :=
  match s.expect with
  | .std => { s with mode := .std }
  | .exp => { s with mode := .exp }
  | .single =>
    let t := { s with pl := { len := d.len, idx := 0 } }
    if d.len = 0 then abortSession c .complete (t.emit (.payloadEnd 0)) else { t with mode := .payload }

/-- `HeaderComplete()` (R156). `parseHeader` is never Truncated here, since `HP_BUF` holds 7 bytes: the arm is for
totality and reports what R150 would. -/
def headerComplete (c : Config) (s : State) : State :=
  match parseHeader c s.hp.buf.toList with
  | .truncated => raiseFatal c (.truncated .hdr (s.hp.cnt.zeroExtend 30)) .fatal s
  | .invalidSync => raiseFatal c (.invalidSync .hdr) .fatal s
  | .descriptor d =>
    let t := s.emit (.descriptor d.len d.mode d.dtype)
    if checkExpected c s.expect d then routeDescriptor c d t
    else raiseFatal c (.unexpectedResponse d.len d.dtype s.expect) .fatal t

/-- `HeaderByte(b)` (R155). -/
def headerByte (c : Config) (b : Byte) (s : State) : Result :=
  if h : s.hp.cnt.toNat < 7 then
    let t := { s with hp := { cnt := s.hp.cnt + 1, buf := s.hp.buf.set s.hp.cnt.toNat b h } }
    if t.hp.cnt.toNat = c.hdrLen then .next (headerComplete c t) else .next t
  else .fault .headerOverrun

/-- `PayloadByte(b)` (R160). -/
def payloadByte (c : Config) (b : Byte) (s : State) : Result :=
  if s.pl.idx = BitVec.allOnes 30 then .fault .payloadIndexOverflow
  else
    let t := { s.emit (.payloadByte s.pl.idx b) with pl := { s.pl with idx := s.pl.idx + 1 } }
    if t.pl.idx = t.pl.len then .next (abortSession c .complete (t.emit (.payloadEnd t.pl.len))) else .next t

/-! ## StandardScanDecoder, 43_standard_scan.md -/

/-- Offset 0 (R171): quality latched; Boundary, StdCheckFail or nothing. -/
def stdByte0 (b : Byte) (s : State) : State :=
  { s.emits (newScanEvents b) with sd := { s.sd with q := stdQuality b, pos := 1 } }

/-- Offset 1 (R172). -/
def stdByte1 (b : Byte) (s : State) : State := { s with sd := { s.sd with alo := stdAngleLow b, pos := 2 } }

/-- Offset 2 (R173). -/
def stdByte2 (b : Byte) (s : State) : State := { s with sd := { s.sd with ang := stdAngle b s.sd.alo, pos := 3 } }

/-- Offset 3 (R174). -/
def stdByte3 (b : Byte) (s : State) : State := { s with sd := { s.sd with dlo := b, pos := 4 } }

/-- The event a complete unit gives (R175). -/
def stdUnitEvent (ang : BitVec 15) (d : BitVec 16) (q : BitVec 6) : Event :=
  if 0 < d.toNat then .stdSample ang d q else .zeroReturn .std

/-- Offset 4 (R175). -/
def stdByte4 (b : Byte) (s : State) : State :=
  { s.emit (stdUnitEvent s.sd.ang (stdDistance b s.sd.dlo) s.sd.q) with sd := { s.sd with pos := 0 } }

/-- `StdByte(b)` (R170): dispatch on `SD_POS`. -/
def stdByte (b : Byte) (s : State) : Result :=
  match s.sd.pos.toNat with
  | 0 => .next (stdByte0 b s)
  | 1 => .next (stdByte1 b s)
  | 2 => .next (stdByte2 b s)
  | 3 => .next (stdByte3 b s)
  | 4 => .next (stdByte4 b s)
  | _ => .fault .stdOffsetOutOfRange

/-! ## ExpressScanDecoder, 44_express_scan.md -/

/-- `Discard(n)` (R191). -/
def discardBytes (c : Config) (n : Nat) (s : State) : State :=
  { s.emits (discardEvents c n s.xd) with xd := discardRegs c n s.xd }

/-- `XD_PH <- ph`. -/
def State.setPhase (ph : Phase) (s : State) : State := { s with xd := { s.xd with ph := ph } }

/-- `Hunt0(b)` (R192). -/
def hunt0 (c : Config) (b : Byte) (s : State) : State :=
  if highNibble b = c.syncNib1 then s.setPhase .hunt1 else discardBytes c 1 s

/-- `Hunt1(b)` (R192): a byte that fails as second marker is tested again as first (D16). -/
def hunt1 (c : Config) (b : Byte) (s : State) : State :=
  if highNibble b = c.syncNib2 then { s with xd := acquireSync s.xd }
  else if highNibble b = c.syncNib1 then discardBytes c 1 s
  else (discardBytes c 2 s).setPhase .hunt0

/-- The event of one pending entry (R194, R199). -/
def pendingEvent (c : Config) (prev ref : BitVec 15) (i : Nat) (e : Pair) : Event :=
  if 0 < e.dist.toNat then .expSample (angleQ11 c (interpolated c prev ref i e)) e.dist else .zeroReturn .exp

/-- The events of `EmitPending(prev, ref)` (R194), in ascending index. -/
def pendingEvents (c : Config) (prev ref : BitVec 15) (pend : Vector Pair 32) : List Event :=
  pend.toList.zipIdx.map fun ei => pendingEvent c prev ref ei.2 ei.1

/-- The events of packet offset 3 (R193): the boundary first, then the previous packet if one is pending. -/
def refEvents (c : Config) (x : ExpRegs) (ref : BitVec 15) : List Event :=
  (if wrapped x.prev ref then [.boundary .exp] else [])
    ++ (if x.pvalid then pendingEvents c x.prev ref x.pend else [])

/-- `RefByte(b)` at offset 2 (R193). -/
def refByteLow (b : Byte) (s : State) : State := { s with xd := { s.xd with refLo := b, pos := 3 } }

/-- `RefByte(b)` at offset 3 (R193). -/
def refByteHigh (c : Config) (b : Byte) (s : State) : State :=
  { s.emits (refEvents c s.xd (refAngle b s.xd.refLo)) with
    xd := { s.xd with ref := refAngle b s.xd.refLo, pos := 4 } }

/-- `CabinComplete(k, …)` (R198): entries 2k and 2k + 1 of the in-progress buffer. -/
def cabinComplete (k : Fin 16) (b0 b1 b2 b3 b4 : Byte) (x : ExpRegs) : ExpRegs :=
  { x with cur := (x.cur.set (2 * k.val) (cabinFirst b0 b1 b4)).set (2 * k.val + 1) (cabinSecond b2 b3 b4) }

/-- `PacketCommit()` (R200). -/
def packetCommit (x : ExpRegs) : ExpRegs :=
  { x with pend := x.cur, prev := x.ref, pvalid := true, ph := .hunt0, pos := 0 }

/-- Byte `j` of cabin `k` (R195): latched for j < 4; the fifth byte completes the cabin. -/
def cabinLatch (k : Fin 16) (j : Nat) (b : Byte) (x : ExpRegs) : ExpRegs :=
  if h : j < 4 then { x with cab := x.cab.set j b h }
  else cabinComplete k x.cab[0] x.cab[1] x.cab[2] x.cab[3] b x

/-- `CabinByte(b)` (R195): cabin (p - 4) div 5, byte (p - 4) mod 5; at the last offset the packet is committed, else
`XD_POS` goes on. -/
def cabinByte (c : Config) (b : Byte) (s : State) : Result :=
  let p := s.xd.pos.toNat
  if h : 4 ≤ p ∧ (p - 4) / 5 < 16 then
    let x := cabinLatch ⟨(p - 4) / 5, h.2⟩ ((p - 4) % 5) b s.xd
    .next { s with xd := if p + 1 = c.expUnit then packetCommit x else { x with pos := s.xd.pos + 1 } }
  else .fault .expOffsetOutOfRange

/-- `ExpByte(b)` (R190). -/
def expByte (c : Config) (b : Byte) (s : State) : Result :=
  match s.xd.ph with
  | .hunt0 => .next (hunt0 c b s)
  | .hunt1 => .next (hunt1 c b s)
  | .body =>
    if s.xd.pos = 2 then .next (refByteLow b s)
    else if s.xd.pos = 3 then .next (refByteHigh c b s)
    else cabinByte c b s

/-! ## Inbound bytes -/

/-- RX's dispatch on MODE (R108). In IDLE the byte is discarded with no event (D25). -/
def rxByte (c : Config) (b : Byte) (s : State) : Result :=
  match s.mode with
  | .idle => .next s
  | .hdr => headerByte c b s
  | .payload => payloadByte c b s
  | .std => stdByte b s
  | .exp => expByte c b s

/-- FEED (R80): the bytes as consecutive RX operations, in order (R56). -/
def feed (c : Config) : List Byte → State → Result
  | [], s => .next s
  | b :: bs, s => andThen (rxByte c b s) (feed c bs)

/-! ## The port -/

/-- The next item at the port and the state without it; `none` when the host has placed nothing (log 3). -/
def fetch (s : State) : Option (Transaction × State) :=
  match s.port with
  | [] => none
  | tx :: rest => some (tx, { s with port := rest })

end Sys2Proof.Machine
end

