-- ==== Sys2Proof/Machine/Commands.lean ====
section
/-! DEFINITION. The meanings of the command rows (41_command_encoder.md R133 to R141): each is CMD of 30_encoding.md
R80, that is ENCODE with the row's opcode and payload, and emits the row's frame; as a function of the configuration
(00_scope.md R12), and then in the modelled instance (log 9). Beside them the table the host picks START's argument from
(R142). -/

namespace Sys2Proof.Machine

/-- GET_INFO (R133). -/
def execGetInfoIn (c : Config) (s : State) : Result := sendFrame c 0x50 [] s

/-- `execGetInfoIn` in the modelled instance. -/
def execGetInfo (s : State) : Result := execGetInfoIn Config.rpd s

/-- GET_HEALTH (R134). -/
def execGetHealthIn (c : Config) (s : State) : Result := sendFrame c 0x52 [] s

/-- `execGetHealthIn` in the modelled instance. -/
def execGetHealth (s : State) : Result := execGetHealthIn Config.rpd s

/-- GET_SAMPLERATE (R135). -/
def execGetSampleRateIn (c : Config) (s : State) : Result := sendFrame c 0x59 [] s

/-- `execGetSampleRateIn` in the modelled instance. -/
def execGetSampleRate (s : State) : Result := execGetSampleRateIn Config.rpd s

/-- SCAN (R136). -/
def execScanIn (c : Config) (s : State) : Result := sendFrame c 0x20 [] s

/-- `execScanIn` in the modelled instance. -/
def execScan (s : State) : Result := execScanIn Config.rpd s

/-- EXPRESS_SCAN (R137): five zero bytes of payload. -/
def execExpressScanIn (c : Config) (s : State) : Result := sendFrame c 0x82 [0x00, 0x00, 0x00, 0x00, 0x00] s

/-- `execExpressScanIn` in the modelled instance. -/
def execExpressScan (s : State) : Result := execExpressScanIn Config.rpd s

/-- STOP_SCAN (R139): the device's command; the block's session goes on. -/
def execStopScanIn (c : Config) (s : State) : Result := sendFrame c 0x25 [] s

/-- `execStopScanIn` in the modelled instance. -/
def execStopScan (s : State) : Result := execStopScanIn Config.rpd s

/-- RESET_DEV (R140): the device's command; the block keeps its state. -/
def execResetDevIn (c : Config) (s : State) : Result := sendFrame c 0x40 [] s

/-- `execResetDevIn` in the modelled instance. -/
def execResetDev (s : State) : Result := execResetDevIn Config.rpd s

/-- SET_MOTOR_PWM v (R138): low byte first (D12). -/
def execSetMotorPwmIn (c : Config) (v : BitVec 16) (s : State) : Result :=
  sendFrame c 0xF0 [v.extractLsb' 0 8, v.extractLsb' 8 8] s

/-- `execSetMotorPwmIn` in the modelled instance. -/
def execSetMotorPwm (v : BitVec 16) (s : State) : Result := execSetMotorPwmIn Config.rpd v s

/-- ENCODE_ANY (R141): framed without any check. -/
def execEncodeAnyIn (c : Config) (op : Byte) (p : List Byte) (s : State) : Result := sendFrame c op p s

/-- `execEncodeAnyIn` in the modelled instance. -/
def execEncodeAny (op : Byte) (p : List Byte) (s : State) : Result := execEncodeAnyIn Config.rpd op p s

/-- What `ExpectedResponse` answers (R142). -/
inductive ExpectedResponse
  /-- START with this kind. -/
  | kind (e : Expect)
  /-- The command has no response: issue no START. -/
  | none
  /-- The host decides; the block gives no default. -/
  | unknown
deriving DecidableEq, Repr

/-- `ExpectedResponse(op)` (R142). -/
def expectedResponse (op : Byte) : ExpectedResponse :=
  if op = 0x50 ∨ op = 0x52 ∨ op = 0x59 then .kind .single
  else if op = 0x20 then .kind .std
  else if op = 0x82 then .kind .exp
  else if op = 0xF0 ∨ op = 0x25 ∨ op = 0x40 then .none
  else .unknown

end Sys2Proof.Machine
end

