-- ==== Sys2Proof/Machine/HostOps.lean ====
section
/-! DEFINITION. The meanings of the host operations (40_host_interface.md R102, R105 to R110):
each as a function of the configuration (00_scope.md R12), and then in the modelled instance `Config.rpd` (log 9). -/

namespace Sys2Proof.Machine

/-- RESET (R107): the open session ends, then every register takes its power-on value. -/
def execResetIn (c : Config) (s : State) : Result := .next (abortSession c .reset s).powerOn

/-- `execResetIn` in the modelled instance. -/
def execReset (s : State) : Result := execResetIn Config.rpd s

/-- START e (R105): an open session ends with RESTART, every register takes its session-start value, and the session
is announced. START with the reserved argument never gets here: its word is HOST_OP_RESERVED. -/
def execStartIn (c : Config) (e : Expect) (s : State) : Result :=
  .next (((abortSession c .restart s).sessionStart e).emit (.sessionStart e))

/-- `execStartIn` in the modelled instance. -/
def execStart (e : Expect) (s : State) : Result := execStartIn Config.rpd e s

/-- STOP (R106). -/
def execStopIn (c : Config) (s : State) : Result := .next (abortSession c .stop s)

/-- `execStopIn` in the modelled instance. -/
def execStop (s : State) : Result := execStopIn Config.rpd s

/-- RX b (R108). -/
def execRxIn (c : Config) (b : Byte) (s : State) : Result := rxByte c b s

/-- `execRxIn` in the modelled instance. -/
def execRx (b : Byte) (s : State) : Result := execRxIn Config.rpd b s

/-- ENCODE op p (R109). -/
def execEncodeIn (c : Config) (op : Byte) (p : List Byte) (s : State) : Result := sendFrame c op p s

/-- `execEncodeIn` in the modelled instance. -/
def execEncode (op : Byte) (p : List Byte) (s : State) : Result := execEncodeIn Config.rpd op p s

/-- XFAIL (R110): TransportFailure, then the session, if one is open, ends. -/
def execXfailIn (c : Config) (s : State) : Result := .next (raiseFatal c .transportFailure .xfail s)

/-- `execXfailIn` in the modelled instance. -/
def execXfail (s : State) : Result := execXfailIn Config.rpd s

/-- HOST_OP_RESERVED (R102): Refused, with no next state and no events, under the name of R102's case. -/
def execHostOpReserved (w : HostWord) (_s : State) : Result :=
  match hostWordRefusal w with
  | some why => .refused (.hostOp why)
  | none => .refused .illFormed

end Sys2Proof.Machine
end

