-- ==== Sys2Proof/Machine/Units.lean ====
section
/-! DEFINITION. The meanings of the inbound units: each is FEED of 30_encoding.md R80, the unit's bytes as consecutive
RX operations, which go wherever MODE and the position counters send them (40_host_interface.md R108; log 1). Each is a function of the
configuration (00_scope.md R12), and then stands in the modelled instance (log 9). -/

namespace Sys2Proof.Machine

/-- RESP_DESC (R155, R156). -/
def execRespDescIn (c : Config) (len : BitVec 30) (mode : BitVec 2) (dtype : Byte) (s : State) : Result :=
  feed c (encodeRespDesc c len mode dtype) s

/-- `execRespDescIn` in the modelled instance. -/
def execRespDesc (len : BitVec 30) (mode : BitVec 2) (dtype : Byte) (s : State) : Result :=
  execRespDescIn Config.rpd len mode dtype s

/-- STD_UNIT (R170 to R175). -/
def execStdUnitIn (c : Config) (u : StdUnit) (s : State) : Result := feed c (encodeStdUnit u) s

/-- `execStdUnitIn` in the modelled instance. -/
def execStdUnit (u : StdUnit) (s : State) : Result := execStdUnitIn Config.rpd u s

/-- EXP_PACKET (R190 to R200). -/
def execExpPacketIn (c : Config) (p : ExpPacket) (s : State) : Result := feed c (encodeExpPacket c p) s

/-- `execExpPacketIn` in the modelled instance. -/
def execExpPacket (p : ExpPacket) (s : State) : Result := execExpPacketIn Config.rpd p s

/-- EXP_CABIN (R195 to R198). -/
def execExpCabinIn (c : Config) (cab : Cabin) (s : State) : Result := feed c (encodeCabin cab) s

/-- `execExpCabinIn` in the modelled instance. -/
def execExpCabin (cab : Cabin) (s : State) : Result := execExpCabinIn Config.rpd cab s

end Sys2Proof.Machine
end

