-- ==== Sys2Proof/Machine/Dispatch.lean ====
section
/-! DEFINITION. The one dispatch from an instruction to its meaning, one arm per row of spec/opcode_table.json. -/

namespace Sys2Proof.Machine

def exec (i : Instr) (s : State) : Host.Outcome State Fault Refusal :=
  match i with
  -- command frames, 41_command_encoder.md
  | .getInfo => Sys2Proof.Machine.execGetInfo s
  | .getHealth => Sys2Proof.Machine.execGetHealth s
  | .getSampleRate => Sys2Proof.Machine.execGetSampleRate s
  | .scan => Sys2Proof.Machine.execScan s
  | .expressScan => Sys2Proof.Machine.execExpressScan s
  | .stopScan => Sys2Proof.Machine.execStopScan s
  | .resetDev => Sys2Proof.Machine.execResetDev s
  | .setMotorPwm v => Sys2Proof.Machine.execSetMotorPwm v s
  | .encodeAny op p => Sys2Proof.Machine.execEncodeAny op p s
  -- host operations, 40_host_interface.md
  | .reset => Sys2Proof.Machine.execReset s
  | .start e => Sys2Proof.Machine.execStart e s
  | .stop => Sys2Proof.Machine.execStop s
  | .rx b => Sys2Proof.Machine.execRx b s
  | .encode op p => Sys2Proof.Machine.execEncode op p s
  | .xfail => Sys2Proof.Machine.execXfail s
  | .hostOpReserved w _ => Sys2Proof.Machine.execHostOpReserved w s
  -- inbound units, 42_response_header.md, 43_standard_scan.md, 44_express_scan.md
  | .respDesc len mode dtype => Sys2Proof.Machine.execRespDesc len mode dtype s
  | .stdUnit u => Sys2Proof.Machine.execStdUnit u s
  | .expPacket p => Sys2Proof.Machine.execExpPacket p s
  | .expCabin cab => Sys2Proof.Machine.execExpCabin cab s

end Sys2Proof.Machine
end

