-- ==== Sys2Proof/Machine/Consumer.lean ====
section
/-! DEFINITION. The reference consumer of the event stream (45_scan_aggregator.md R230 to R237) and the views a consumer
takes of a single response's payload (42_response_header.md R161 to R164). None of it is part of the block, and the
block reads none of it. -/

namespace Sys2Proof.Machine

/-! ## The Sample view, R231 -/

/-- `view(StdSample(a6, d2, q))`: the angle reduced mod 360 degrees, the distance in 1/4 mm. The angle is
`toRad` of the degrees given here, whose real value is `Radians.value` (log 6). -/
def viewStd (c : Config) (a6 : BitVec 15) (d2 : BitVec 16) (q : BitVec 6) : Sample :=
  { angle := ⟨((a6.toNat % c.degQ6Full : Nat) : Rat) / 64⟩
    distance := (d2.toNat : Rat) / 4000
    quality := some q }

/-- `view(ExpSample(a11, dmm))`: no quality (R205), and the angle as in `viewStd`. -/
def viewExp (a11 : BitVec 20) (dmm : BitVec 14) : Sample :=
  { angle := ⟨(a11.toNat : Rat) / 2048⟩
    distance := (dmm.toNat : Rat) / 1000
    quality := none }

/-! ## Scan aggregation, R232 to R235 -/

/-- The rotation rate between two boundary times: none when the clock has not moved (R232). -/
def scanRate (lastT t : Rat) : Option Rat := if lastT < t then some (1 / (t - lastT)) else none

/-- `onBoundary(t)` (R232): deliver the open scan under its own index, and open the next. -/
def onBoundary (t : Rat) (k : Consumer) : Consumer :=
  { k with
    delivered := k.delivered ++ [{ index := k.openScan.index, samples := k.openScan.samples
                                   completed := k.openScan.samples.length, zeroReturns := k.openScan.zeroCount
                                   rateHz := scanRate k.lastT t }]
    openScan := { index := k.openScan.index + 1, samples := [], zeroCount := 0 }
    lastT := t
    clockReads := k.clockReads + 1 }

/-- `onSample` (R233). -/
def onSample (x : Sample) (k : Consumer) : Consumer :=
  { k with openScan := { k.openScan with samples := k.openScan.samples ++ [x] }, total := k.total + 1 }

/-- ZeroReturn (R233). -/
def onZeroReturn (k : Consumer) : Consumer :=
  { k with openScan := { k.openScan with zeroCount := k.openScan.zeroCount + 1 } }

/-- SessionStart at time t (R234). -/
def onSessionStart (t : Rat) (k : Consumer) : Consumer :=
  { k with openScan := { index := 0, samples := [], zeroCount := 0 }, lastT := t, total := 0, active := true
           clockReads := k.clockReads + 1 }

/-- SessionEnd (R235): the open scan is discarded, not delivered (log 7 says what stands in its place). -/
def onSessionEnd (k : Consumer) : Consumer :=
  { k with openScan := { index := 0, samples := [], zeroCount := 0 }, active := false }

/-- One event (R232 to R235), and it counts as read. The clock is read at SessionStart and at Boundary, once each
(R237). -/
def onEvent (c : Config) (k : Consumer) (e : Event) : Consumer :=
  let read := { k with eventsRead := k.eventsRead + 1 }
  match e with
  | .txFrame _ => read
  | .descriptor _ _ _ => read
  | .payloadByte _ _ => read
  | .payloadEnd _ => read
  | .boundary _ => onBoundary (c.now k.clockReads) read
  | .stdSample a d q => onSample (viewStd c a d q) read
  | .expSample a d => onSample (viewExp a d) read
  | .zeroReturn _ => onZeroReturn read
  | .sessionStart _ => onSessionStart (c.now k.clockReads) read
  | .sessionEnd _ => onSessionEnd read
  | .invalidSync _ => read
  | .truncated _ _ => read
  | .unexpectedResponse _ _ _ => read
  | .lossOfSync _ => read
  | .transportFailure => read
  | .stdCheckFail _ => read

/-- The consumer reads the events it has not read yet, in order (R103). -/
def catchUp (c : Config) (stream : List Event) (k : Consumer) : Consumer :=
  (stream.drop k.eventsRead).foldl (onEvent c) k

/-- The consumer's turn after a step of the block (log 4). -/
def State.consumerReadsIn (c : Config) (s : State) : State := { s with consumer := catchUp c s.events s.consumer }

/-- `State.consumerReadsIn` in the modelled instance. -/
def State.consumerReads (s : State) : State := s.consumerReadsIn Config.rpd

/-! ## Views of a single response's payload, R161 to R164 -/

/-- A little-endian 16-bit field (R52, D11). -/
def littleEndian16 (lo hi : Byte) : BitVec 16 := lo.zeroExtend 16 ||| (hi.zeroExtend 16 <<< 8)

/-- The payload of PayloadByte events, in order: `P[0 .. len-1]` of R161. -/
def payloadOf (es : List Event) : List Byte :=
  es.filterMap fun e =>
    match e with
    | .payloadByte _ b => some b
    | _ => none

/-- Device info (R162): the 4 info bytes, under the names general knowledge gives them (D11, G4), and the serial bytes,
as many as the payload has after them. A byte the payload does not have is absent (R161). -/
structure DeviceInfo where
  model         : Option Byte
  firmwareMinor : Option Byte
  firmwareMajor : Option Byte
  hardware      : Option Byte
  serial        : List Byte
deriving DecidableEq, Repr

/-- The view of R162. -/
def deviceInfo (p : List Byte) : DeviceInfo :=
  { model := p[0]?, firmwareMinor := p[1]?, firmwareMajor := p[2]?, hardware := p[3]?, serial := p.drop 4 }

/-- Health (R163): the status byte. -/
def healthStatus (p : List Byte) : Option Byte := p[0]?

/-- The meanings general knowledge gives a status byte (R163, G5). -/
inductive HealthStatus
  | good
  | warning
  | error
  | other
deriving DecidableEq, Repr

/-- The status values of R163. -/
def healthStatusOf (b : Byte) : HealthStatus :=
  if b = 0 then .good else if b = 1 then .warning else if b = 2 then .error else .other

/-- Health (R163): the error code, bytes 1 and 2. -/
def healthErrorCode (p : List Byte) : Option (BitVec 16) :=
  match p with
  | _ :: lo :: hi :: _ => some (littleEndian16 lo hi)
  | _ => none

/-- Sample rate (R164): the standard period in microseconds, bytes 0 and 1. -/
def standardPeriod (p : List Byte) : Option (BitVec 16) :=
  match p with
  | lo :: hi :: _ => some (littleEndian16 lo hi)
  | _ => none

/-- Sample rate (R164): the express period in microseconds, bytes 2 and 3. -/
def expressPeriod (p : List Byte) : Option (BitVec 16) :=
  match p with
  | _ :: _ :: lo :: hi :: _ => some (littleEndian16 lo hi)
  | _ => none

/-- The names of a descriptor's send-mode (R153, D7): reported by the block, never checked. -/
inductive SendMode
  | single
  | continuous
  | reserved
deriving DecidableEq, Repr

/-- The send-mode values of R153. -/
def sendModeOf (m : BitVec 2) : SendMode := if m = 0 then .single else if m = 1 then .continuous else .reserved

end Sys2Proof.Machine
end

