-- ==== Sys2Proof/Machine/Run.lean ====
section
/-! DEFINITION. Running what stands at the port, for any configuration and any dispatch: the item is taken, decoded and
run (00_scope.md R12, 40_host_interface.md R100), and then the consumer reads the events it gave (R103). -/

namespace Sys2Proof.Machine

/-- What a step answers for an item that is no instruction: R102's case for a payload longer than `MAX_PAYLOAD`, else
the decoder's name (log 11). -/
def refusalOf (why : DecodeError) : Refusal :=
  match why with
  | .payloadTooLong => .hostOp .payloadTooLong
  | why => .undecodable why

/-- One step over a dispatch `ex`. With nothing at the port the block waits and nothing changes (60_exceptions.md R257;
log 3). -/
def runItem (c : Config) (ex : Instr → State → Result) (s : State) : Result :=
  match fetch s with
  | none => .next s
  | some (tx, t) =>
    match decode c tx with
    | .error why => .refused (refusalOf why)
    | .ok i => andThen (ex i t) (fun u => .next (u.consumerReadsIn c))

end Sys2Proof.Machine
end

