-- ==== Sys2Proof/Machine/Step.lean ====
section
/-! DEFINITION. One step of the machine: the step of R12 in the modelled instance, over the dispatch `exec`. `stepIn` in
Machine/Configured.lean is the step of any other configuration. -/

namespace Sys2Proof.Machine

/-- One step: the next item at the port is taken, decoded and run, and then the consumer reads (R12, R100, R103). -/
def step (s : State) : Host.Outcome State Fault Refusal := runItem Config.rpd exec s

/-- `s` with a row's instruction at the head of the port, where `step` takes its next item (log 2, log 3). -/
def State.withFetchWord (s : State) (nbits w : Nat) : State := { s with port := tableTransaction nbits w :: s.port }

end Sys2Proof.Machine
end

