-- ==== Sys2Proof/Machine/Pseudo.lean ====
section
/-! DEFINITION. The pseudo-operations of the host-operation syntax and their expansions (30_encoding.md R80). -/

namespace Sys2Proof.Machine

/-- The eight commands CMD names (R80). -/
inductive CommandName
  | getInfo
  | getHealth
  | getSampleRate
  | scan
  | expressScan
  | setMotorPwm (v : BitVec 16)
  | stopScan
  | resetDev
deriving DecidableEq, Repr

/-- The pseudo-operations of R80. -/
inductive Pseudo
  | feed (bytes : List Byte)
  | cmd (name : CommandName)
  | query (name : CommandName)
  | streamStd
  | streamExp
deriving DecidableEq, Repr

/-- `CMD name` is an ENCODE (R80). -/
def CommandName.expand : CommandName → Instr
  | .getInfo => .encode 0x50 []
  | .getHealth => .encode 0x52 []
  | .getSampleRate => .encode 0x59 []
  | .scan => .encode 0x20 []
  | .expressScan => .encode 0x82 [0x00, 0x00, 0x00, 0x00, 0x00]
  | .setMotorPwm v => .encode 0xF0 [v.extractLsb' 0 8, v.extractLsb' 8 8]
  | .stopScan => .encode 0x25 []
  | .resetDev => .encode 0x40 []

/-- The row of the opcode table a command name is (R78). -/
def CommandName.row : CommandName → Instr
  | .getInfo => .getInfo
  | .getHealth => .getHealth
  | .getSampleRate => .getSampleRate
  | .scan => .scan
  | .expressScan => .expressScan
  | .setMotorPwm v => .setMotorPwm v
  | .stopScan => .stopScan
  | .resetDev => .resetDev

/-- The expansion of a pseudo-operation into host operations (R80). -/
def Pseudo.expand : Pseudo → List Instr
  | .feed bytes => bytes.map Instr.rx
  | .cmd name => [name.expand]
  | .query name => [name.expand, .start .single]
  | .streamStd => [CommandName.expand .scan, .start .std]
  | .streamExp => [CommandName.expand .expressScan, .start .exp]

/-! ## The textual syntax of R80 -/

/-- A byte as R80 writes it: `0x` and two hexadecimal digits, in upper case as 95_test_vectors.md has them (log 20). -/
def byteText (b : Byte) : String := "0x" ++ String.ofList [hexDigit (b.toNat / 16), hexDigit (b.toNat % 16)]
where
  hexDigit (n : Nat) : Char := if n < 10 then Char.ofNat (48 + n) else Char.ofNat (55 + n)

/-- A payload list as R80 writes it. -/
def payloadText (p : List Byte) : String := "[" ++ String.intercalate ", " (p.map byteText) ++ "]"

/-- The name of an expected kind in START. -/
def expectText : Expect → String
  | .single => "SINGLE"
  | .std => "STD"
  | .exp => "EXP"

/-- A command's text, CMD and its name (R80). -/
def cmdText (name : String) : Option String := some ("CMD " ++ name)

/-- The text of an operation in the syntax of R80; an inbound unit is the FEED of its bytes, and a reserved word has
none. DESIGN CHOICE (log 20): R80 writes SET_MOTOR_PWM's operand only as the letter v; here it is a decimal number. -/
def instrText (c : Config) (i : Instr) : Option String :=
  match i with
  | .getInfo => cmdText "GET_INFO"
  | .getHealth => cmdText "GET_HEALTH"
  | .getSampleRate => cmdText "GET_SAMPLERATE"
  | .scan => cmdText "SCAN"
  | .expressScan => cmdText "EXPRESS_SCAN"
  | .stopScan => cmdText "STOP_SCAN"
  | .resetDev => cmdText "RESET_DEV"
  | .setMotorPwm v => cmdText ("SET_MOTOR_PWM " ++ toString v.toNat)
  | .encodeAny op p => some ("ENCODE " ++ byteText op ++ " " ++ payloadText p)
  | .reset => some "RESET"
  | .start e => some ("START " ++ expectText e)
  | .stop => some "STOP"
  | .rx b => some ("RX " ++ byteText b)
  | .encode op p => some ("ENCODE " ++ byteText op ++ " " ++ payloadText p)
  | .xfail => some "XFAIL"
  | .hostOpReserved _ _ => none
  | .respDesc len mode dtype => some ("FEED " ++ payloadText (encodeRespDesc c len mode dtype))
  | .stdUnit u => some ("FEED " ++ payloadText (encodeStdUnit u))
  | .expPacket p => some ("FEED " ++ payloadText (encodeExpPacket c p))
  | .expCabin cab => some ("FEED " ++ payloadText (encodeCabin cab))

end Sys2Proof.Machine
end

