-- ==== Sys2Proof/Safety.lean ====
section
/-! DEFINITION. What counts as a safe run, in the terms the statements use: the invariant of the registers, of the event
stream and of the consumer, a result without a fault, and the host's duties (40_host_interface.md R113). -/

namespace Sys2Proof.Machine

/-! ## The registers -/

/-- The express decoder's registers (10_state.md R28, R29, R35): the offset is one of 2 to 83 in BODY and 0 while
hunting; an episode is open exactly when a byte has been discarded, none is in BODY, and LossOfSync has been reported
exactly when the count has reached 85; and without a pending packet the previous angle is 0. -/
def ExpRegs.Ok (x : ExpRegs) : Prop :=
  (x.ph = .body → 2 ≤ x.pos.toNat ∧ x.pos.toNat ≤ 83 ∧ x.disc = 0)
    ∧ (x.ph ≠ .body → x.pos = 0)
    ∧ x.disc.toNat ≤ 85 ∧ (x.epi = true ↔ 0 < x.disc.toNat) ∧ (x.los = true ↔ x.disc.toNat = 85)
    ∧ (x.pvalid = false → x.prev = 0)

/-- What MODE says of the other registers (R22, R25 to R27, and 42_response_header.md R156: the decoder a session does
not use keeps its session-start value). -/
def State.ModeOk (s : State) : Prop :=
  match s.mode with
  | .idle => True
  | .hdr => s.hp.cnt.toNat < 7 ∧ s.pl = .zero ∧ s.sd = .zero ∧ s.xd = .zero
  | .payload => s.expect = .single ∧ s.hp.cnt = 7 ∧ s.pl.idx.toNat < s.pl.len.toNat ∧ s.sd = .zero ∧ s.xd = .zero
  | .std => s.expect = .std ∧ s.hp.cnt = 7 ∧ s.pl = .zero ∧ s.xd = .zero
  | .exp => s.expect = .exp ∧ s.hp.cnt = 7 ∧ s.pl = .zero ∧ s.sd = .zero

/-- The registers are in the ranges 10_state.md gives them. -/
structure State.RegsInv (s : State) : Prop where
  mode   : s.ModeOk
  stdPos : s.sd.pos.toNat ≤ 4
  exp    : s.xd.Ok

/-! ## The event stream and the consumer -/

/-- Whether a session is open after one more event: SessionStart opens it and SessionEnd closes it. -/
def openAfter (isOpen : Bool) (e : Event) : Bool :=
  match e with
  | .sessionStart _ => true
  | .sessionEnd _ => false
  | _ => isOpen

/-- Whether a session is open after a stream of events. -/
def sessionOpen (es : List Event) : Bool := es.foldl openAfter false

/-- The stream says what MODE says (60_exceptions.md R254: SessionEnd stands on every path out of a session). -/
def State.StreamInv (s : State) : Prop := sessionOpen s.events = decide (s.mode ≠ .idle)

/-- The consumer has read the whole stream, and is active exactly while a session is open (45_scan_aggregator.md
R230). -/
def State.ConsumerInv (s : State) : Prop :=
  s.consumer.eventsRead = s.events.length ∧ s.consumer.active = decide (s.mode ≠ .idle)

/-- The invariant of the machine between two steps. -/
structure State.Inv (s : State) : Prop where
  regs     : s.RegsInv
  stream   : s.StreamInv
  consumer : s.ConsumerInv

/-! ## Safe results -/

/-- The machine did not stop with a fault. -/
def noFault (r : Result) : Prop := ∀ e, r ≠ .fault e

/-! ## The host's duties, R113 -/

/-- The device command an operation sends, if it sends one. -/
def sentOpcode (i : Instr) : Option Byte :=
  match i with
  | .encode op _ => some op
  | other => other.commandParts.map Prod.fst

/-- The last command sent that has a response: a command without one (R142) leaves it as it was. -/
def awaited (last : Option Byte) (i : Instr) : Option Byte :=
  match sentOpcode i with
  | none => last
  | some op => if expectedResponse op = .none then last else some op

/-- Whether START e may follow a command (R113, 41_command_encoder.md R142): its expected response is e, or is not the
block's to say. -/
def startAllowed (e : Expect) (op : Byte) : Bool :=
  match expectedResponse op with
  | .kind k => decide (k = e)
  | .none => false
  | .unknown => true

/-- The host's duties that the operations alone show (R113): every START comes after a command with a response, sent
since the last START, and declares the response of the last such command. -/
def startsAfterCommands (last : Option Byte) : List Instr → Bool
  | [] => true
  | i :: is =>
    match i with
    | .start e => last.any (startAllowed e) && startsAfterCommands none is
    | j => startsAfterCommands (awaited last j) is

/-! ## What whole inbound units say -/

/-- Byte 0 of a standard unit (R74). -/
def stdByteZero (u : StdUnit) : Byte := join (join u.quality (flag u.sbar)) (flag u.s)

/-- The events of one standard unit, decoded from its first byte on (43_standard_scan.md R171, R175, R177). -/
def stdUnitEvents (u : StdUnit) : List Event :=
  (if u.s = u.sbar then [.stdCheckFail (stdByteZero u)] else if u.s then [.boundary .std] else [])
    ++ [if u.dist = 0 then .zeroReturn .std else .stdSample u.angle u.dist u.quality]

/-- The 32 entries of a packet, cabin k's two samples at 2k and 2k + 1 (44_express_scan.md R199). -/
def packetSamples (p : ExpPacket) : Vector Pair 32 :=
  Vector.ofFn fun i => if i.val % 2 = 0 then p.cabins[i.val / 2].s1 else p.cabins[i.val / 2].s2

/-- The first four bytes of a cabin, as `XD_CAB` holds them (R195). -/
def cabinHead (cab : Cabin) : Vector Byte 4 :=
  #v[join (join (cab.s1.dist.extractLsb' 0 6) (flag cab.s1.sgn)) (cab.s1.mag.extractLsb' 4 1),
    cab.s1.dist.extractLsb' 6 8,
    join (join (cab.s2.dist.extractLsb' 0 6) (flag cab.s2.sgn)) (cab.s2.mag.extractLsb' 4 1),
    cab.s2.dist.extractLsb' 6 8]

/-- The express registers after one whole packet taken from HUNT0 with no byte lost: hunting again, the packet pending
(R192, R193, R195, R200). -/
def afterPacket (p : ExpPacket) : ExpRegs :=
  { ph := .hunt0, pos := 0, disc := 0, epi := false, los := false
    refLo := p.ref.extractLsb' 0 8, ref := p.ref, prev := p.ref, pvalid := true
    cab := cabinHead p.cabins[15], cur := packetSamples p, pend := packetSamples p }

end Sys2Proof.Machine
end

