-- ==== Sys2Proof/Certificates/Slice0/Obligations.lean ====
section
/-! DEFINITION. The statements for the provers. An equation `exec i s = .next { s with … }` names every field that
changes, so it states the frame too: every register, port, stream or consumer field it does not name is as before. -/

open Sys2Proof Sys2Proof.Machine

/-! ## Encoding -/

/-- Decoding what the encoder wrote gives the instruction back (30_encoding.md R71 to R77). -/
def Obligations.DecodeOfEncodeIsIdentity : Prop :=
  ∀ i : Instr, i.wf Config.rpd = true → decode Config.rpd (encode Config.rpd i) = .ok i

/-- Every item the decoder accepts is the encoding of the well-formed instruction it gives: one meaning, no bit lost. -/
def Obligations.EncodeOfDecodeIsIdentity : Prop :=
  ∀ (tx : Transaction) (i : Instr), decode Config.rpd tx = .ok i →
    encode Config.rpd i = tx ∧ i.wf Config.rpd = true

/-- Words written out from 30_encoding.md decode to their rows: two command frames (cmd_frame), three host words (host_op),
a response descriptor (resp_desc) and an express cabin (exp_cabin); no std_unit and no exp_packet word is among them. A
row's number has its first byte highest, which is DEDUCED (log 2). -/
def Obligations.TableWordsDecodeToTheirRows : Prop :=
  decodeTableWord 24 0xA550F5 = some .getInfo
    ∧ decodeTableWord 40 0xA5F09402C3 = some (.setMotorPwm 0x0294)
    ∧ decodeTableWord 16 0x1100 = some (.start .std)
    ∧ decodeTableWord 16 0x30A5 = some (.rx 0xA5)
    ∧ decodeTableWord 16 0x1300 = some (.hostOpReserved 0x1300 [])
    ∧ decodeTableWord 56 0xA55A5400004082 = some (.respDesc 84 1 0x82)
    ∧ decode Config.rpd (.feed .expCabin [0xA1, 0x0F, 0x00, 0x00, 0x23])
        = .ok (.expCabin { s1 := { dist := 1000, sgn := false, mag := 19 }, s2 := { dist := 0, sgn := false, mag := 2 } })

/-- R102: a refused word stops the step whatever payload came with it; and so does a payload longer than `MAX_PAYLOAD`,
under every configuration that bounds it. -/
def Obligations.RefusedHostOperationsStop : Prop :=
  (∀ (s : State) (w : HostWord) (p : List Byte) (rest : List Transaction), s.port = .hostOp w p :: rest →
      (6 ≤ (hostTag w).toNat ∨ hostZero w ≠ 0 ∨ (hostTag w ≠ 1 ∧ hostArg w ≠ 0) ∨ (hostTag w = 1 ∧ hostArg w = 3)
        ∨ (hostTag w ≠ 3 ∧ hostTag w ≠ 4 ∧ hostData w ≠ 0)) →
      ∃ why, step s = .refused (.hostOp why))
    ∧ ∀ (c : Config) (n : Nat) (op : Byte) (p : List Byte) (s : State), c.maxPayload = some n → n < p.length →
        decode c (.hostOp (hostWord 4 0 op) p) = .error .payloadTooLong
          ∧ sendFrame c op p s = .refused (.hostOp .payloadTooLong)

/-- R102 for the row HOST_OP_RESERVED: every word of the row is Refused, in every state. -/
def Obligations.HostOpReservedIsRefused : Prop :=
  ∀ (s : State) (w : HostWord) (p : List Byte), (Instr.hostOpReserved w p).wf Config.rpd = true →
    ∃ why, exec (.hostOpReserved w p) s = .refused (.hostOp why)

/-! ## The step -/

/-- A step runs the decoded instruction: with an item that decodes to i at the head of the port, step is exec of i on
the state without that item, and then the consumer reads the new events. -/
def Obligations.StepRunsTheDecodedInstruction : Prop :=
  ∀ (s : State) (tx : Transaction) (rest : List Transaction) (i : Instr),
    s.port = tx :: rest → decode Config.rpd tx = .ok i →
      step s = match exec i { s with port := rest } with
        | .next t => .next { t with consumer := catchUp Config.rpd t.events t.consumer }
        | .fault e => .fault e
        | .refused e => .refused e

/-- The model's choice (log 3): with nothing at the port a step changes nothing; and an item that does not decode is
refused by the decoder's name. -/
def Obligations.StepWaitsAndRejectsByName : Prop :=
  (∀ s : State, s.port = [] → step s = .next s)
    ∧ ∀ (s : State) (tx : Transaction) (rest : List Transaction) (why : DecodeError),
        s.port = tx :: rest → decode Config.rpd tx = .error why → step s = .refused (.undecodable why)

/-! ## Host operations -/

/-- R111: the events of `AbortSession` in each MODE, and that MODE becomes IDLE and nothing else changes. -/
def Obligations.AbortSessionByMode : Prop :=
  ∀ (s : State) (r : EndReason),
    (s.mode = .idle → abortSession Config.rpd r s = s)
      ∧ (s.mode = .hdr → s.hp.cnt.toNat < 7 →
          abortSession Config.rpd r s = { s with
            mode := .idle, events := s.events ++ [.truncated .hdr (s.hp.cnt.zeroExtend 30), .sessionEnd r] })
      ∧ (s.mode = .hdr → s.hp.cnt.toNat = 7 →
          abortSession Config.rpd r s = { s with mode := .idle, events := s.events ++ [.sessionEnd r] })
      ∧ (s.mode = .payload → r ≠ .complete →
          abortSession Config.rpd r s = { s with
            mode := .idle, events := s.events ++ [.truncated .payload s.pl.idx, .sessionEnd r] })
      ∧ (s.mode = .payload → r = .complete →
          abortSession Config.rpd r s = { s with mode := .idle, events := s.events ++ [.sessionEnd r] })
      ∧ (s.mode = .std ∨ s.mode = .exp →
          abortSession Config.rpd r s = { s with mode := .idle, events := s.events ++ [.sessionEnd r] })

/-- R106: STOP is `AbortSession(STOP)`; in IDLE it does nothing. -/
def Obligations.StopEndsTheSession : Prop :=
  ∀ s : State, exec .stop s = .next (abortSession Config.rpd .stop s) ∧ (s.mode = .idle → exec .stop s = .next s)

/-- R107 with the power-on values of R35: every register named, whatever it held. -/
def Obligations.ResetGivesPowerOnValues : Prop :=
  ∀ s : State, exec .reset s = .next
    { mode := .idle, expect := .single
      hp := { cnt := 0, buf := #v[0, 0, 0, 0, 0, 0, 0] }
      pl := { len := 0, idx := 0 }
      sd := { pos := 0, q := 0, alo := 0, ang := 0, dlo := 0 }
      xd := { ph := .hunt0, pos := 0, disc := 0, epi := false, los := false, refLo := 0, ref := 0, prev := 0
              pvalid := false, cab := #v[0, 0, 0, 0]
              cur := Vector.replicate 32 { dist := 0, sgn := false, mag := 0 }
              pend := Vector.replicate 32 { dist := 0, sgn := false, mag := 0 } }
      port := s.port, consumer := s.consumer
      events := (abortSession Config.rpd .reset s).events }

/-- R105 with the session-start values of R35: every register named, whatever it held; SessionStart comes last. The
reserved argument 3 is Refused. -/
def Obligations.StartGivesSessionStartValues : Prop :=
  (∀ (s : State) (p : List Byte), exec (.hostOpReserved 0x1300 p) s = .refused (.hostOp .startArgReserved))
  ∧ ∀ (s : State) (e : Expect), exec (.start e) s = .next
    { mode := .hdr, expect := e
      hp := { cnt := 0, buf := #v[0, 0, 0, 0, 0, 0, 0] }
      pl := { len := 0, idx := 0 }
      sd := { pos := 0, q := 0, alo := 0, ang := 0, dlo := 0 }
      xd := { ph := .hunt0, pos := 0, disc := 0, epi := false, los := false, refLo := 0, ref := 0, prev := 0
              pvalid := false, cab := #v[0, 0, 0, 0]
              cur := Vector.replicate 32 { dist := 0, sgn := false, mag := 0 }
              pend := Vector.replicate 32 { dist := 0, sgn := false, mag := 0 } }
      port := s.port, consumer := s.consumer
      events := (abortSession Config.rpd .restart s).events ++ [.sessionStart e] }

/-- R110: TransportFailure, then `AbortSession(XFAIL)`; alone in IDLE. -/
def Obligations.XfailReportsAndEndsTheSession : Prop :=
  ∀ s : State,
    exec .xfail s = .next (abortSession Config.rpd .xfail { s with events := s.events ++ [.transportFailure] })
      ∧ (s.mode = .idle → exec .xfail s = .next { s with events := s.events ++ [.transportFailure] })

/-- R60, R203: ending a session, by whichever operation, flushes nothing: no sample, zero-return or boundary. -/
def Obligations.EndingASessionFlushesNothing : Prop :=
  ∀ (s t : State) (i : Instr), (i = .stop ∨ i = .reset ∨ i = .xfail ∨ ∃ e, i = .start e) → exec i s = .next t →
    ∃ es, t.events = s.events ++ es ∧ ∀ e ∈ es,
      (∀ src, e ≠ .boundary src) ∧ (∀ src, e ≠ .zeroReturn src) ∧ (∀ a d q, e ≠ .stdSample a d q)
        ∧ ∀ a d, e ≠ .expSample a d

/-! ## Commands -/

/-- R109, R130, R143: ENCODE emits the frame of its operands and changes no register, in any MODE. -/
def Obligations.EncodeEmitsTheFrame : Prop :=
  ∀ (s : State) (op : Byte) (p : List Byte),
    exec (.encode op p) s = .next { s with
      events := s.events ++ [.txFrame ([0xA5, op] ++ p ++ [xorFold ([0xA5, op] ++ p)])] }

/-- R131: the XOR-fold of all bytes of a frame is 0, for every opcode, payload and sync byte. -/
def Obligations.FrameXorIsZero : Prop :=
  ∀ (c : Config) (op : Byte) (p : List Byte), xorFold (commandFrame c op p) = 0

/-- R133 to R140: the frame of each command of the table, byte for byte, and the response it expects. -/
def Obligations.CommandsEmitTheirTableFrames : Prop :=
  (∀ s : State,
    exec .getInfo s = .next { s with events := s.events ++ [.txFrame [0xA5, 0x50, 0xF5]] }
      ∧ exec .getHealth s = .next { s with events := s.events ++ [.txFrame [0xA5, 0x52, 0xF7]] }
      ∧ exec .getSampleRate s = .next { s with events := s.events ++ [.txFrame [0xA5, 0x59, 0xFC]] }
      ∧ exec .scan s = .next { s with events := s.events ++ [.txFrame [0xA5, 0x20, 0x85]] }
      ∧ exec .expressScan s = .next { s with
          events := s.events ++ [.txFrame [0xA5, 0x82, 0x00, 0x00, 0x00, 0x00, 0x00, 0x27]] }
      ∧ exec .stopScan s = .next { s with events := s.events ++ [.txFrame [0xA5, 0x25, 0x80]] }
      ∧ exec .resetDev s = .next { s with events := s.events ++ [.txFrame [0xA5, 0x40, 0xE5]] }
      ∧ ∀ lo hi : Byte, exec (.setMotorPwm (join hi lo)) s = .next { s with
          events := s.events ++ [.txFrame [0xA5, 0xF0, lo, hi, 0x55 ^^^ lo ^^^ hi]] })
    ∧ [0x50, 0x52, 0x59, 0x20, 0x82, 0x25, 0x40, 0xF0].map expectedResponse
        = [.kind .single, .kind .single, .kind .single, .kind .std, .kind .exp, .none, .none, .none]

/-- R141: any opcode and any payload is framed, with no check. -/
def Obligations.UnlistedCommandsAreFramed : Prop :=
  ∀ (s : State) (op : Byte) (p : List Byte),
    exec (.encodeAny op p) s = .next { s with events := s.events ++ [.txFrame (commandFrame Config.rpd op p)] }
      ∧ (commandFrame Config.rpd op p).length = p.length + 3

/-- R80: CMD of each command does what its expansion, an ENCODE, does. -/
def Obligations.CommandIsItsEncodeExpansion : Prop :=
  ∀ (name : CommandName) (s : State), exec name.row s = exec name.expand s

/-- R142: the table of expected responses. -/
def Obligations.ExpectedResponseTable : Prop :=
  ∀ op : Byte, expectedResponse op =
    if op ∈ [0x50, 0x52, 0x59] then .kind .single
    else if op ∈ [0x20] then .kind .std
    else if op ∈ [0x82] then .kind .exp
    else if op ∈ [0xF0, 0x25, 0x40] then .none
    else .unknown

/-! ## Response header and payload -/

/-- R150 to R154: `ParseHeader` checks the length first, then the sync pair, and its fields are the little-endian
numbers of the bytes. -/
def Obligations.ParseHeaderFields : Prop :=
  (∀ (c : Config) (buf : List Byte), buf.length < 7 → parseHeader c buf = .truncated)
    ∧ ∀ (b0 b1 b2 b3 b4 b5 b6 : Byte) (more : List Byte),
        ((b0 ≠ 0xA5 ∨ b1 ≠ 0x5A) →
          parseHeader Config.rpd (b0 :: b1 :: b2 :: b3 :: b4 :: b5 :: b6 :: more) = .invalidSync)
        ∧ (b0 = 0xA5 ∧ b1 = 0x5A →
          ∃ d, parseHeader Config.rpd (b0 :: b1 :: b2 :: b3 :: b4 :: b5 :: b6 :: more) = .descriptor d
            ∧ d.len.toNat = b2.toNat + 2 ^ 8 * b3.toNat + 2 ^ 16 * b4.toNat + 2 ^ 24 * (b5.toNat % 64)
            ∧ d.mode.toNat = b5.toNat / 64 ∧ d.dtype = b6)

/-- R157: what each expectation demands of a descriptor. -/
def Obligations.ExpectationCheck : Prop :=
  ∀ d : Descriptor,
    (checkExpected Config.rpd .std d = true ↔ d.len.toNat = 5 ∧ d.dtype = 0x81)
      ∧ (checkExpected Config.rpd .exp d = true ↔ d.len.toNat = 84 ∧ d.dtype = 0x82)
      ∧ checkExpected Config.rpd .single d = true

/-- R155: before the seventh byte, the byte goes into the buffer and nothing is reported, whatever it is; the seventh
byte completes the header in its own step. -/
def Obligations.HeaderByteIsCollected : Prop :=
  ∀ (s : State) (b : Byte), s.mode = .hdr →
    (∀ h : s.hp.cnt.toNat < 6, exec (.rx b) s = .next { s with
        hp := { cnt := s.hp.cnt + 1, buf := s.hp.buf.set s.hp.cnt.toNat b (by omega) } })
      ∧ (s.hp.cnt = 6 → exec (.rx b) s = .next (headerComplete Config.rpd { s with
        hp := { cnt := 7, buf := s.hp.buf.set 6 b } }))

/-- R156: the step of the seventh byte, in each of its outcomes. -/
def Obligations.HeaderCompletesAtTheSeventhByte : Prop :=
  ∀ (s t : State) (b : Byte), s.mode = .hdr → s.hp.cnt = 6 →
    t = { s with hp := { cnt := 7, buf := s.hp.buf.set 6 b } } →
    (parseHeader Config.rpd t.hp.buf.toList = .invalidSync →
        exec (.rx b) s = .next { t with
          mode := .idle, events := s.events ++ [.invalidSync .hdr, .sessionEnd .fatal] })
      ∧ ∀ d, parseHeader Config.rpd t.hp.buf.toList = .descriptor d →
        (checkExpected Config.rpd s.expect d = false →
            exec (.rx b) s = .next { t with
              mode := .idle
              events := s.events ++ [.descriptor d.len d.mode d.dtype, .unexpectedResponse d.len d.dtype s.expect,
                .sessionEnd .fatal] })
          ∧ (checkExpected Config.rpd s.expect d = true →
            (s.expect = .std →
                exec (.rx b) s = .next { t with
                  mode := .std, events := s.events ++ [.descriptor d.len d.mode d.dtype] })
              ∧ (s.expect = .exp →
                exec (.rx b) s = .next { t with
                  mode := .exp, events := s.events ++ [.descriptor d.len d.mode d.dtype] })
              ∧ (s.expect = .single → d.len ≠ 0 →
                exec (.rx b) s = .next { t with
                  mode := .payload, pl := { len := d.len, idx := 0 }
                  events := s.events ++ [.descriptor d.len d.mode d.dtype] })
              ∧ (s.expect = .single → d.len = 0 →
                exec (.rx b) s = .next { t with
                  mode := .idle, pl := { len := 0, idx := 0 }
                  events := s.events ++ [.descriptor d.len d.mode d.dtype, .payloadEnd 0, .sessionEnd .complete] }))

/-- R73, R155 to R157: a whole descriptor, fed from its first byte in a session that expects it. -/
def Obligations.RespDescOpensTheResponse : Prop :=
  ∀ (s t : State) (len : BitVec 30) (mode : BitVec 2) (dtype : Byte), s.mode = .hdr → s.hp.cnt = 0 →
    t = { s with
      hp := { cnt := 7
              buf := #v[0xA5, 0x5A, len.extractLsb' 0 8, len.extractLsb' 8 8, len.extractLsb' 16 8,
                join mode (len.extractLsb' 24 6), dtype] }
      events := s.events ++ [.descriptor len mode dtype] } →
    (s.expect = .std → len = 5 → dtype = 0x81 → exec (.respDesc len mode dtype) s = .next { t with mode := .std })
      ∧ (s.expect = .exp → len = 84 → dtype = 0x82 → exec (.respDesc len mode dtype) s = .next { t with mode := .exp })
      ∧ (s.expect = .single → len ≠ 0 →
          exec (.respDesc len mode dtype) s = .next { t with mode := .payload, pl := { len := len, idx := 0 } })
      ∧ (s.expect = .single → len = 0 →
          exec (.respDesc len mode dtype) s = .next { t with
            mode := .idle, pl := { len := 0, idx := 0 }
            events := t.events ++ [.payloadEnd 0, .sessionEnd .complete] })
      ∧ ((s.expect = .std ∧ ¬(len = 5 ∧ dtype = 0x81)) ∨ (s.expect = .exp ∧ ¬(len = 84 ∧ dtype = 0x82)) →
          exec (.respDesc len mode dtype) s = .next { t with
            mode := .idle, events := t.events ++ [.unexpectedResponse len dtype s.expect, .sessionEnd .fatal] })

/-- R160: a payload byte is forwarded under its index; the last one ends the session. -/
def Obligations.PayloadByteIsForwarded : Prop :=
  ∀ (s : State) (b : Byte), s.mode = .payload → s.pl.idx.toNat + 1 < 2 ^ 30 →
    (s.pl.idx.toNat + 1 ≠ s.pl.len.toNat →
        exec (.rx b) s = .next { s with
          pl := { s.pl with idx := s.pl.idx + 1 }, events := s.events ++ [.payloadByte s.pl.idx b] })
      ∧ (s.pl.idx.toNat + 1 = s.pl.len.toNat →
        exec (.rx b) s = .next { s with
          mode := .idle, pl := { s.pl with idx := s.pl.len }
          events := s.events ++ [.payloadByte s.pl.idx b, .payloadEnd s.pl.len, .sessionEnd .complete] })

/-- R108: a byte goes to the unit MODE names; in IDLE it is discarded, with no event and no change. -/
def Obligations.ByteGoesWhereModeSays : Prop :=
  ∀ (s : State) (b : Byte),
    (s.mode = .idle → exec (.rx b) s = .next s)
      ∧ (s.mode = .hdr → exec (.rx b) s = headerByte Config.rpd b s)
      ∧ (s.mode = .payload → exec (.rx b) s = payloadByte Config.rpd b s)
      ∧ (s.mode = .std → exec (.rx b) s = stdByte b s)
      ∧ (s.mode = .exp → exec (.rx b) s = expByte Config.rpd b s)

/-- The model's choice (log 8): a byte that meets a register outside its range of 10_state.md stops the machine with the
fault named for it. No run from reset gets there: the next statements of the invariant say so. -/
def Obligations.OutOfRangeRegistersFault : Prop :=
  ∀ (s : State) (b : Byte),
    (s.mode = .hdr → s.hp.cnt = 7 → exec (.rx b) s = .fault .headerOverrun)
      ∧ (s.mode = .payload → s.pl.idx = BitVec.allOnes 30 → exec (.rx b) s = .fault .payloadIndexOverflow)
      ∧ (s.mode = .std → 5 ≤ s.sd.pos.toNat → exec (.rx b) s = .fault .stdOffsetOutOfRange)
      ∧ (s.mode = .exp → s.xd.ph = .body → s.xd.pos.toNat < 2 ∨ 84 ≤ s.xd.pos.toNat →
          exec (.rx b) s = .fault .expOffsetOutOfRange)

/-! ## Standard scan -/

/-- R171: the offset-0 byte, in its three outcomes. -/
def Obligations.StdOffsetZeroLatchesQualityAndFlag : Prop :=
  ∀ (s t : State) (b : Byte), s.mode = .std → s.sd.pos = 0 →
    t = { s with sd := { s.sd with q := BitVec.ofNat 6 (b.toNat / 4), pos := 1 } } →
    (b.toNat % 2 = b.toNat / 2 % 2 → exec (.rx b) s = .next { t with events := s.events ++ [.stdCheckFail b] })
      ∧ (b.toNat % 4 = 1 → exec (.rx b) s = .next { t with events := s.events ++ [.boundary .std] })
      ∧ (b.toNat % 4 = 2 → exec (.rx b) s = .next t)

/-- R172 to R175: the other four offsets, as arithmetic on the bytes. -/
def Obligations.StdOffsetsAssembleTheSample : Prop :=
  ∀ (s : State) (b : Byte), s.mode = .std →
    (s.sd.pos = 1 → exec (.rx b) s = .next { s with sd := { s.sd with alo := BitVec.ofNat 7 (b.toNat / 2), pos := 2 } })
      ∧ (s.sd.pos = 2 → exec (.rx b) s = .next { s with
          sd := { s.sd with ang := BitVec.ofNat 15 (b.toNat * 128 + s.sd.alo.toNat), pos := 3 } })
      ∧ (s.sd.pos = 3 → exec (.rx b) s = .next { s with sd := { s.sd with dlo := b, pos := 4 } })
      ∧ (s.sd.pos = 4 → exec (.rx b) s = .next { s with
          sd := { s.sd with pos := 0 }
          events := s.events ++ [
            if b.toNat * 256 + s.sd.dlo.toNat > 0
            then .stdSample s.sd.ang (BitVec.ofNat 16 (b.toNat * 256 + s.sd.dlo.toNat)) s.sd.q
            else .zeroReturn .std] })

/-- R170 to R177 for one whole unit: the registers hold its fields, and its events are the flag's and then the
sample's. -/
def Obligations.StdUnitIsDecoded : Prop :=
  ∀ (s : State) (u : StdUnit), s.mode = .std → s.sd.pos = 0 →
    exec (.stdUnit u) s = .next { s with
      sd := { pos := 0, q := u.quality, alo := u.angle.extractLsb' 0 7, ang := u.angle, dlo := u.dist.extractLsb' 0 8 }
      events := s.events ++ stdUnitEvents u }

/-- A stream of standard units, fed from a unit's first byte, gives the events of each unit in order, and as many
Boundary(STD) as units with S = 1 and its complement 0 (R177); the events of one unit are those of R171 to R175. -/
def Obligations.StdStreamIsDecoded : Prop :=
  ∀ (s : State) (us : List StdUnit), s.mode = .std → s.sd.pos = 0 →
    ∃ t, feed Config.rpd (us.flatMap encodeStdUnit) s = .next t
      ∧ t.events = s.events ++ us.flatMap stdUnitEvents
      ∧ t.mode = .std ∧ t.sd.pos = 0 ∧ t.xd = s.xd ∧ t.hp = s.hp ∧ t.pl = s.pl ∧ t.expect = s.expect
      ∧ (us.flatMap stdUnitEvents).count (.boundary .std) = us.countP (fun u => u.s && !u.sbar)

/-- R176: `SD_POS` advances by one on every byte, whatever the byte holds, and never resynchronises. -/
def Obligations.StdOffsetIgnoresTheBytes : Prop :=
  ∀ (s : State) (bs : List Byte), s.mode = .std → s.sd.pos.toNat ≤ 4 →
    ∃ t, feed Config.rpd bs s = .next t ∧ t.mode = .std ∧ t.sd.pos.toNat = (s.sd.pos.toNat + bs.length) % 5

/-! ## Express scan -/

/-- R191: what `Discard(n)` does. -/
def Obligations.DiscardReportsOncePerEpisode : Prop :=
  ∀ (s : State) (n : Nat), ∃ t, t = discardBytes Config.rpd n s
    ∧ t.xd = { s.xd with epi := true, disc := t.xd.disc, los := s.xd.los || decide (84 < s.xd.disc.toNat + n) }
    ∧ t.xd.disc.toNat = min (s.xd.disc.toNat + n) 85
    ∧ t.events = s.events ++ (if s.xd.epi = false then [.invalidSync .exp] else [])
        ++ (if 84 < s.xd.disc.toNat + n ∧ s.xd.los = false then [.lossOfSync t.xd.disc] else [])
    ∧ t = { s with xd := t.xd, events := t.events }

/-- R192: the marker search, at the modelled marker nibbles 0xA and 0x5. The spec takes both values from general
knowledge (D15), so they are PRESUMED (log 10). -/
def Obligations.MarkerSearch : Prop :=
  ∀ (s : State) (b : Byte), s.mode = .exp →
    (s.xd.ph = .hunt0 →
        (b.toNat / 16 = 0xA → exec (.rx b) s = .next { s with xd := { s.xd with ph := .hunt1 } })
          ∧ (b.toNat / 16 ≠ 0xA → exec (.rx b) s = .next (discardBytes Config.rpd 1 s)))
      ∧ (s.xd.ph = .hunt1 →
        (b.toNat / 16 = 0x5 → exec (.rx b) s = .next { s with
            xd := { s.xd with ph := .body, pos := 2, epi := false, disc := 0, los := false } })
          ∧ (b.toNat / 16 = 0xA → exec (.rx b) s = .next (discardBytes Config.rpd 1 s))
          ∧ (b.toNat / 16 ≠ 0x5 → b.toNat / 16 ≠ 0xA → exec (.rx b) s = .next ((discardBytes Config.rpd 2 s).setPhase .hunt0)))

/-- R191 over a whole search: bytes with no first marker give one InvalidSync(EXP) at the first, one LossOfSync(85) once
more than 84 are discarded, and nothing more however long the search goes on. The first marker's nibble 0xA is PRESUMED
(D15, log 10). -/
def Obligations.GarbageIsReportedOnce : Prop :=
  ∀ (s : State) (bs : List Byte), s.mode = .exp → s.xd.ph = .hunt0 → s.xd.epi = false → s.xd.disc = 0 →
    s.xd.los = false → (∀ b ∈ bs, b.toNat / 16 ≠ 0xA) →
    feed Config.rpd bs s = .next { s with
      xd := { s.xd with epi := !bs.isEmpty, disc := BitVec.ofNat 7 (min bs.length 85), los := decide (84 < bs.length) }
      events := s.events ++ (if bs = [] then [] else [.invalidSync .exp])
        ++ (if 84 < bs.length then [.lossOfSync 85] else []) }

/-- R193: the reference-angle bytes: latch; then the angle, the boundary if it went down, and the pending packet if
there is one. -/
def Obligations.ReferenceAngleBytes : Prop :=
  ∀ (s : State) (b : Byte), s.mode = .exp → s.xd.ph = .body →
    (s.xd.pos = 2 → exec (.rx b) s = .next { s with xd := { s.xd with refLo := b, pos := 3 } })
      ∧ (s.xd.pos = 3 → ∀ ref : BitVec 15, ref.toNat = b.toNat % 128 * 256 + s.xd.refLo.toNat →
          exec (.rx b) s = .next { s with
            xd := { s.xd with ref := ref, pos := 4 }
            events := s.events ++ (if ref.toNat < s.xd.prev.toNat then [.boundary .exp] else [])
              ++ (if s.xd.pvalid = true then pendingEvents Config.rpd s.xd.prev ref s.xd.pend else []) })

/-- R194: the interpolation law, entry by entry, in exact 1/2048 degrees, and the range of the angle before reduction:
−7936 ≤ a ≤ 1770689 for every input, both ends reached. -/
def Obligations.InterpolationLaw : Prop :=
  (∀ (prev ref : BitVec 15) (pend : Vector Pair 32),
    (pendingEvents Config.rpd prev ref pend).length = 32
      ∧ ∀ (i : Nat) (hi : i < 32),
        (pend[i].dist.toNat = 0 → (pendingEvents Config.rpd prev ref pend)[i]? = some (.zeroReturn .exp))
          ∧ (0 < pend[i].dist.toNat → ∃ a : BitVec 20,
              (pendingEvents Config.rpd prev ref pend)[i]? = some (.expSample a pend[i].dist)
                ∧ (a.toNat : Int) =
                  ((prev.toNat : Int) * 32
                    + (if ref.toNat < prev.toNat then (ref.toNat : Int) - prev.toNat + 23040
                        else (ref.toNat : Int) - prev.toNat) * i
                    - (if pend[i].sgn = true then -(pend[i].mag.toNat : Int) else pend[i].mag.toNat) * 256) % 737280))
    ∧ (∀ (prev ref : BitVec 15) (i : Nat) (e : Pair), i < 32 →
        -7936 ≤ interpolated Config.rpd prev ref i e ∧ interpolated Config.rpd prev ref i e ≤ 1770689)
    ∧ (∃ (prev ref : BitVec 15) (i : Nat) (e : Pair), i < 32 ∧ interpolated Config.rpd prev ref i e = -7936)
    ∧ ∃ (prev ref : BitVec 15) (i : Nat) (e : Pair), i < 32 ∧ interpolated Config.rpd prev ref i e = 1770689

/-- R196, R197: the cabin's fields as arithmetic on its bytes, and the delta they stand for in units of 1/8 degree. -/
def Obligations.CabinFields : Prop :=
  ∀ b0 b1 b2 b3 b4 : Byte,
    (cabinFirst b0 b1 b4).dist.toNat = b1.toNat * 64 + b0.toNat / 4
      ∧ (cabinSecond b2 b3 b4).dist.toNat = b3.toNat * 64 + b2.toNat / 4
      ∧ (cabinFirst b0 b1 b4).sgn = decide (b0.toNat / 2 % 2 = 1)
      ∧ (cabinFirst b0 b1 b4).mag.toNat = b0.toNat % 2 * 16 + b4.toNat % 16
      ∧ (cabinSecond b2 b3 b4).sgn = decide (b2.toNat / 2 % 2 = 1)
      ∧ (cabinSecond b2 b3 b4).mag.toNat = b2.toNat % 2 * 16 + b4.toNat / 16
      ∧ deltaQ3 (cabinFirst b0 b1 b4)
          = (if b0.toNat / 2 % 2 = 1 then -1 else 1) * ((b0.toNat % 2 * 16 + b4.toNat % 16 : Nat) : Int)
      ∧ deltaQ3 (cabinSecond b2 b3 b4)
          = (if b2.toNat / 2 % 2 = 1 then -1 else 1) * ((b2.toNat % 2 * 16 + b4.toNat / 16 : Nat) : Int)

/-- R195, R198, R200: a cabin byte is latched; the fifth writes the cabin's two entries; the byte of offset 83 commits
the packet. No event, whatever the byte. -/
def Obligations.CabinBytes : Prop :=
  ∀ (s : State) (b : Byte) (k : Fin 16) (j : Nat), s.mode = .exp → s.xd.ph = .body →
    s.xd.pos.toNat = 4 + 5 * k.val + j →
    (∀ hj : j < 4, exec (.rx b) s = .next { s with
        xd := { s.xd with cab := s.xd.cab.set j b hj, pos := s.xd.pos + 1 } })
      ∧ (j = 4 → ∀ cur, cur = (s.xd.cur.set (2 * k.val) (cabinFirst s.xd.cab[0] s.xd.cab[1] b)).set (2 * k.val + 1)
            (cabinSecond s.xd.cab[2] s.xd.cab[3] b) →
        (k.val < 15 → exec (.rx b) s = .next { s with xd := { s.xd with cur := cur, pos := s.xd.pos + 1 } })
          ∧ (k.val = 15 → exec (.rx b) s = .next { s with
            xd := { s.xd with cur := cur, pend := cur, prev := s.xd.ref, pvalid := true, ph := .hunt0, pos := 0 } }))

/-- R195 to R200 for a whole cabin: its two samples go to entries 2k and 2k + 1, and the sixteenth commits the packet. -/
def Obligations.ExpCabinFillsTwoEntries : Prop :=
  ∀ (s : State) (cab : Cabin) (k : Fin 16) (cur : Vector Pair 32), s.mode = .exp → s.xd.ph = .body →
    s.xd.pos.toNat = 4 + 5 * k.val →
    cur = (s.xd.cur.set (2 * k.val) cab.s1).set (2 * k.val + 1) cab.s2 →
    (k.val < 15 → exec (.expCabin cab) s = .next { s with
        xd := { s.xd with cab := cabinHead cab, cur := cur, pos := s.xd.pos + 5 } })
      ∧ (k.val = 15 → exec (.expCabin cab) s = .next { s with
        xd := { s.xd with
          cab := cabinHead cab, cur := cur, pend := cur, prev := s.xd.ref, pvalid := true, ph := .hunt0, pos := 0 } })

/-- R190 to R200 for a whole packet, taken from HUNT0: the boundary and the PREVIOUS packet's 32 events, and this
packet's samples left pending, whatever its ignored bits are (R202). -/
def Obligations.ExpPacketIsDecoded : Prop :=
  ∀ (s : State) (p : ExpPacket), s.mode = .exp → s.xd.ph = .hunt0 →
    exec (.expPacket p) s = .next { s with
      xd := afterPacket p
      events := s.events ++ (if p.ref.toNat < s.xd.prev.toNat then [.boundary .exp] else [])
        ++ (if s.xd.pvalid = true then pendingEvents Config.rpd s.xd.prev p.ref s.xd.pend else []) }

/-- Resync (R191, R192, 90_conflicts.md C5): ONE garbage byte before a packet, whatever the byte, costs exactly one
InvalidSync(EXP), and the packet is decoded as if the byte had not been there. -/
def Obligations.OneGarbageByteCostsNoPacket : Prop :=
  ∀ (s : State) (p : ExpPacket) (g : Byte), s.mode = .exp → s.xd.ph = .hunt0 → s.xd.epi = false → s.xd.disc = 0 →
    s.xd.los = false →
    feed Config.rpd (g :: encodeExpPacket Config.rpd p) s = .next { s with
      xd := afterPacket p
      events := s.events ++ [.invalidSync .exp] ++ (if p.ref.toNat < s.xd.prev.toNat then [.boundary .exp] else [])
        ++ (if s.xd.pvalid = true then pendingEvents Config.rpd s.xd.prev p.ref s.xd.pend else []) }

/-! ## Chunks -/

/-- R112: however a byte stream is cut into chunks, feeding the chunks one after another is feeding the stream. -/
def Obligations.ChunkingDoesNotMatter : Prop :=
  ∀ (chunks : List (List Byte)) (s : State),
    chunks.foldl (fun r chunk => andThen r (feed Config.rpd chunk)) (.next s) = feed Config.rpd chunks.flatten s

/-- R56, R80: a step that takes a whole inbound unit is as many steps, each taking one RX word, and leaves the same
state, the consumer's too. The unit form of the port is the model's (log 1). -/
def Obligations.UnitStepIsItsRxSteps : Prop :=
  ∀ (s : State) (f : UnitFormat) (bytes : List Byte) (rest : List Transaction) (i : Instr),
    s.port = .feed f bytes :: rest → decode Config.rpd (.feed f bytes) = .ok i →
    s.consumer.eventsRead ≤ s.events.length →
    Sys2Proof.core.run bytes.length
        ({ s with port := bytes.map (fun b => .hostOp (hostWord 3 0 b) []) ++ rest } : State)
      = step s

/-! ## Whole-machine rules -/

/-- The power-on state meets the invariant, and every parameter of the modelled instance keeps its bounds (R7, R35). -/
def Obligations.ResetMeetsTheInvariant : Prop := State.reset.Inv ∧ Config.rpd.Wf

/-- The registers keep their ranges (10_state.md R22 to R29) over every instruction. -/
def Obligations.ExecKeepsTheRegisterInvariant : Prop :=
  ∀ (s t : State) (i : Instr), s.RegsInv → exec i s = .next t → t.RegsInv

/-- Every step keeps the machine's invariant: the register ranges; that a session is open on the event stream exactly
while MODE is not IDLE; and that the consumer has read everything and is active exactly then. That the consumer has read
the whole stream after every step is the model's choice (log 4), no rule of the spec. -/
def Obligations.StepKeepsTheInvariant : Prop := ∀ s t : State, s.Inv → step s = .next t → t.Inv

/-- R250, R113: every operation but the reserved words has a result in every state whose registers are in range, and
no fault is reached. -/
def Obligations.EveryOperationHasAResult : Prop :=
  ∀ (s : State) (i : Instr), s.RegsInv → (∀ w p, i ≠ .hostOpReserved w p) → ∃ t, exec i s = .next t

/-- R252: the error events each operation can raise, and when. -/
def Obligations.ErrorsEachOperationRaises : Prop :=
  ∀ (s t : State) (i : Instr) (es : List Event) (e : Event), exec i s = .next t → t.events = s.events ++ es → e ∈ es →
    e.isError = true →
    (∀ op p, i ≠ .encode op p)
      ∧ ((∃ k, i = .start k) ∨ i = .stop ∨ i = .reset → ∃ src n, e = .truncated src n)
      ∧ (i = .xfail → e = .transportFailure ∨ ∃ src n, e = .truncated src n)
      ∧ (∀ b, i = .rx b →
          s.mode ≠ .idle ∧ s.mode ≠ .payload
            ∧ (s.mode = .hdr → s.hp.cnt = 6 ∧ (e = .invalidSync .hdr ∨ ∃ len dtype k, e = .unexpectedResponse len dtype k))
            ∧ (s.mode = .std → s.sd.pos = 0 ∧ e = .stdCheckFail b)
            ∧ (s.mode = .exp → s.xd.ph ≠ .body ∧ (e = .invalidSync .exp ∨ ∃ n, e = .lossOfSync n)))

/-- R255: a host operation of a state in range reports at most one fatal error, what follows it in the step is the end
of the session, and InvalidSync(EXP) and LossOfSync never fall in one step. -/
def Obligations.AtMostOneFatalError : Prop :=
  ∀ (s t : State) (i : Instr) (es : List Event), s.RegsInv →
    (i = .reset ∨ i = .stop ∨ i = .xfail ∨ (∃ k, i = .start k) ∨ (∃ b, i = .rx b) ∨ ∃ op p, i = .encode op p) →
    exec i s = .next t → t.events = s.events ++ es →
    es.countP (fun e => decide (e = .invalidSync .hdr) || decide (e = .transportFailure)
        || decide (e.code = 0x12)) ≤ 1
      ∧ ((.invalidSync .hdr ∈ es ∨ ∃ len dtype k, .unexpectedResponse len dtype k ∈ es) →
          es.getLast? = some (.sessionEnd .fatal) ∧ t.mode = .idle)
      ∧ (.transportFailure ∈ es → s.mode ≠ .idle → es.getLast? = some (.sessionEnd .xfail) ∧ t.mode = .idle)
      ∧ ¬ (.invalidSync .exp ∈ es ∧ ∃ n, .lossOfSync n ∈ es)

/-- R287: a host operation adds at most 33 events, and only the byte at express offset 3 adds more than 3. -/
def Obligations.LargestStepIsThirtyThreeEvents : Prop :=
  ∀ (s t : State) (i : Instr),
    (i = .reset ∨ i = .stop ∨ i = .xfail ∨ (∃ k, i = .start k) ∨ (∃ b, i = .rx b) ∨ ∃ op p, i = .encode op p) →
    exec i s = .next t →
    ∃ es, t.events = s.events ++ es ∧ es.length ≤ 33
      ∧ (3 < es.length → (∃ b, i = .rx b) ∧ s.mode = .exp ∧ s.xd.ph = .body ∧ s.xd.pos = 3)

/-- The frame of an inbound byte or unit: `EXPECT` is untouched and events are only added; in IDLE nothing changes
(R108); from STD nothing changes but that decoder's registers, and MODE stays (R170 to R175), and from EXP the same (R190
to R200). That the port and the consumer are untouched is about fields of the model's own (log 3, log 4). -/
def Obligations.InboundBytesFrame : Prop :=
  ∀ (s t : State) (bs : List Byte), feed Config.rpd bs s = .next t →
    t.expect = s.expect ∧ t.port = s.port ∧ t.consumer = s.consumer ∧ s.events <+: t.events
      ∧ (s.mode = .idle → t = s)
      ∧ (s.mode = .std → t = { s with sd := t.sd, events := t.events })
      ∧ (s.mode = .exp → t = { s with xd := t.xd, events := t.events })

/-- R22: who writes MODE. The commands and ENCODE never do; START sets HDR; STOP, RESET and XFAIL set IDLE; a byte
changes it only at a descriptor's seventh byte or a payload's last. -/
def Obligations.WritersOfMode : Prop :=
  ∀ (s t : State) (i : Instr), exec i s = .next t →
    (i.commandParts ≠ none ∨ (∃ op p, i = .encode op p) → t.mode = s.mode)
      ∧ ((∃ k, i = .start k) → t.mode = .hdr)
      ∧ (i = .stop ∨ i = .reset ∨ i = .xfail → t.mode = .idle)
      ∧ (∀ b, i = .rx b → t.mode ≠ s.mode →
          (s.mode = .hdr ∧ s.hp.cnt = 6) ∨ (s.mode = .payload ∧ s.pl.idx.toNat + 1 = s.pl.len.toNat ∧ t.mode = .idle))

/-- Every sample the block emits has a distance above 0 (R175 and R178 for StdSample, R194 for ExpSample), and every
express angle is below a full turn (R194, and R104 for the range). -/
def Obligations.EmittedSamplesAreInRange : Prop :=
  ∀ (s t : State) (i : Instr) (es : List Event), exec i s = .next t → t.events = s.events ++ es →
    (∀ a d q, .stdSample a d q ∈ es → 0 < d.toNat)
      ∧ ∀ a d, .expSample a d ∈ es → 0 < d.toNat ∧ a.toNat < 737280

/-- R58, R103, R236: over a step the event stream and the delivered scans only grow at their ends. -/
def Obligations.StreamsOnlyGrow : Prop :=
  ∀ s t : State, step s = .next t → s.events <+: t.events ∧ s.consumer.delivered <+: t.consumer.delivered

/-! ## The reference consumer -/

/-- R231: the Sample view, for every `toRad` the consumer can be configured with: the angle is `toRad` of the degrees, the
standard one reduced mod 360, metres, and the quality; and at the default, where `toRad` is exact, it lies in [0, 2π).
That the state holds the argument of `toRad` and not its value is the model's choice (log 6); `Radians.value` is R231's
angle. -/
def Obligations.SampleView : Prop :=
  (∀ (c : Config) (a : BitVec 15) (d : BitVec 16) (q : BitVec 6), c.degQ6Full = 23040 →
      (viewStd c a d q).angle.value c = c.toRad (((a.toNat % 23040 : Nat) : Rat) / 64)
        ∧ (viewStd c a d q).distance = (d.toNat : Rat) / 4000
        ∧ (viewStd c a d q).quality = some q)
    ∧ (∀ (c : Config) (a : BitVec 20) (d : BitVec 14),
      (viewExp a d).angle.value c = c.toRad ((a.toNat : Rat) / 2048)
        ∧ (viewExp a d).distance = (d.toNat : Rat) / 1000
        ∧ (viewExp a d).quality = none)
    ∧ (∀ (c : Config) (f : Rat → ℝ), c.toRadFn = some f → c.toRad = f)
    ∧ (∀ deg : Rat, Config.rpd.toRad deg = (deg : ℝ) * Real.pi / 180)
    ∧ (∀ (a : BitVec 15) (d : BitVec 16) (q : BitVec 6),
      0 ≤ (viewStd Config.rpd a d q).angle.value Config.rpd
        ∧ (viewStd Config.rpd a d q).angle.value Config.rpd < 2 * Real.pi)
    ∧ ∀ (a : BitVec 20) (d : BitVec 14), a.toNat < 737280 →
      0 ≤ (viewExp a d).angle.value Config.rpd ∧ (viewExp a d).angle.value Config.rpd < 2 * Real.pi

/-- R232: a boundary delivers the open scan under its own index and opens the next. -/
def Obligations.BoundaryDeliversTheOpenScan : Prop :=
  ∀ (c : Config) (k : Consumer) (src : Src),
    onEvent c k (.boundary src) = { k with
      delivered := k.delivered ++ [{
        index := k.openScan.index, samples := k.openScan.samples, completed := k.openScan.samples.length
        zeroReturns := k.openScan.zeroCount
        rateHz := if k.lastT < c.now k.clockReads then some (1 / (c.now k.clockReads - k.lastT)) else none }]
      openScan := { index := k.openScan.index + 1, samples := [], zeroCount := 0 }
      lastT := c.now k.clockReads, clockReads := k.clockReads + 1, eventsRead := k.eventsRead + 1 }

/-- R233, R234, R235: samples and zero-returns go into the open scan, SessionStart opens scan 0, SessionEnd delivers
nothing, and every other event leaves the scans alone. That the open scan holds no samples after SessionEnd is the model's
choice (log 7): R235 says it is discarded, and no rule says what stands in its place. -/
def Obligations.ConsumerAggregates : Prop :=
  ∀ (c : Config) (k : Consumer),
    (∀ a d q, onEvent c k (.stdSample a d q) = { k with
        openScan := { k.openScan with samples := k.openScan.samples ++ [viewStd c a d q] }
        total := k.total + 1, eventsRead := k.eventsRead + 1 })
      ∧ (∀ a d, onEvent c k (.expSample a d) = { k with
        openScan := { k.openScan with samples := k.openScan.samples ++ [viewExp a d] }
        total := k.total + 1, eventsRead := k.eventsRead + 1 })
      ∧ (∀ src, onEvent c k (.zeroReturn src) = { k with
        openScan := { k.openScan with zeroCount := k.openScan.zeroCount + 1 }, eventsRead := k.eventsRead + 1 })
      ∧ (∀ e, onEvent c k (.sessionStart e) = { k with
        openScan := { index := 0, samples := [], zeroCount := 0 }, lastT := c.now k.clockReads, total := 0
        active := true, clockReads := k.clockReads + 1, eventsRead := k.eventsRead + 1 })
      ∧ (∀ r, (onEvent c k (.sessionEnd r)).delivered = k.delivered
        ∧ (onEvent c k (.sessionEnd r)).active = false ∧ (onEvent c k (.sessionEnd r)).total = k.total
        ∧ (onEvent c k (.sessionEnd r)).openScan.samples = [])
      ∧ (∀ e : Event, (∃ x, e = .txFrame x) ∨ (∃ x y z, e = .descriptor x y z) ∨ (∃ x y, e = .payloadByte x y)
          ∨ (∃ x, e = .payloadEnd x) ∨ e.isError = true →
        onEvent c k e = { k with eventsRead := k.eventsRead + 1 })

/-- R237: the clock never goes back, whatever the free gaps are. -/
def Obligations.ClockNeverDecreases : Prop := ∀ j k : Nat, j ≤ k → Config.clock j ≤ Config.clock k

/-- R162 to R164: the views of a single response's payload, and the names of the health status values. The names of the
info bytes and of the status values, and the order of the two periods, are general knowledge: PRESUMED (log 10). -/
def Obligations.PayloadViews : Prop :=
  ∀ (b0 b1 b2 b3 : Byte) (more : List Byte),
    deviceInfo (b0 :: b1 :: b2 :: b3 :: more)
        = { model := some b0, firmwareMinor := some b1, firmwareMajor := some b2, hardware := some b3, serial := more }
      ∧ healthStatus (b0 :: more) = some b0
      ∧ (∃ v, healthErrorCode (b0 :: b1 :: b2 :: more) = some v ∧ v.toNat = b1.toNat + 256 * b2.toNat)
      ∧ (∃ v, standardPeriod (b0 :: b1 :: more) = some v ∧ v.toNat = b0.toNat + 256 * b1.toNat)
      ∧ (∃ v, expressPeriod (b0 :: b1 :: b2 :: b3 :: more) = some v ∧ v.toNat = b2.toNat + 256 * b3.toNat)
      ∧ healthStatusOf 0 = .good ∧ healthStatusOf 1 = .warning ∧ healthStatusOf 2 = .error
end

