-- ==== Sys2Proof/Laws/Bits.lean ====
section
/-! SUPPORT. The value of each bit-field helper as arithmetic, so that a fact about fields closes by omega. -/

namespace Sys2Proof

@[simp] theorem join_toNat {n m k : Nat} (hi : BitVec n) (lo : BitVec m) (h : n + m = k) :
    (join hi lo h).toNat = hi.toNat * 2 ^ m + lo.toNat := by
  subst h
  simp only [join, BitVec.toNat_cast, BitVec.toNat_append]
  rw [← Nat.shiftLeft_add_eq_or_of_lt lo.isLt, Nat.shiftLeft_eq]

@[simp] theorem flag_toNat (b : Bool) : (flag b).toNat = b.toNat := by cases b <;> rfl

/-- A bit of a vector as the number 0 or 1 it is. -/
theorem bit_toNat {w : Nat} (v : BitVec w) (i : Nat) : (v.getLsbD i).toNat = v.toNat / 2 ^ i % 2 := by
  rw [BitVec.getLsbD, Nat.testBit_eq_decide_div_mod_eq]
  by_cases h : v.toNat / 2 ^ i % 2 = 1 <;> simp [h]; omega

/-- A vector's bit, written as an element, as the number it is. -/
theorem elem_toNat {w : Nat} (v : BitVec w) (i : Nat) (h : i < w) : (v[i]).toNat = v.toNat / 2 ^ i % 2 := by
  rw [← BitVec.getLsbD_eq_getElem, bit_toNat]

/-- Two bits are equal when their numbers are. -/
theorem bool_eq_of_toNat {a b : Bool} (h : a.toNat = b.toNat) : a = b := by cases a <;> cases b <;> simp_all

/-- A field of a vector, as the quotient and remainder it is. -/
@[simp] theorem field_toNat {w : Nat} (v : BitVec w) (lo n : Nat) : (v.extractLsb' lo n).toNat = v.toNat / 2 ^ lo % 2 ^ n := by
  simp [BitVec.extractLsb'_toNat, Nat.shiftRight_eq_div_pow]

/-- One bit of a vector, as arithmetic. -/
theorem bit_eq_decide {w : Nat} (v : BitVec w) (i : Nat) : v.getLsbD i = decide (v.toNat / 2 ^ i % 2 = 1) := by
  simp [BitVec.getLsbD, Nat.testBit_eq_decide_div_mod_eq]

/-- XOR-fold of a joined list (00_scope.md R10). -/
theorem xorFold_append (as bs : List Byte) : xorFold (as ++ bs) = xorFold as ^^^ xorFold bs := by
  induction as with
  | nil => simp [xorFold]
  | cons a as ih => simp [xorFold, ih, BitVec.xor_assoc]

end Sys2Proof
end

