-- ==== Sys2Proof/Laws/Config.lean ====
section
/-! SUPPORT. The value of every parameter of the modelled instance, one lemma each (00_scope.md R7), and that its clock
never goes back (45_scan_aggregator.md R237). -/

namespace Sys2Proof

@[simp] theorem Config.rpd_cmdSync : Config.rpd.cmdSync = 0xA5 := rfl
@[simp] theorem Config.rpd_hdrSync0 : Config.rpd.hdrSync0 = 0xA5 := rfl
@[simp] theorem Config.rpd_hdrSync1 : Config.rpd.hdrSync1 = 0x5A := rfl
@[simp] theorem Config.rpd_hdrLen : Config.rpd.hdrLen = 7 := rfl
@[simp] theorem Config.rpd_stdUnit : Config.rpd.stdUnit = 5 := rfl
@[simp] theorem Config.rpd_stdType : Config.rpd.stdType = 0x81 := rfl
@[simp] theorem Config.rpd_expUnit : Config.rpd.expUnit = 84 := rfl
@[simp] theorem Config.rpd_expType : Config.rpd.expType = 0x82 := rfl
@[simp] theorem Config.rpd_expCabins : Config.rpd.expCabins = 16 := rfl
@[simp] theorem Config.rpd_expSamples : Config.rpd.expSamples = 32 := rfl
@[simp] theorem Config.rpd_interpDiv : Config.rpd.interpDiv = 32 := rfl
@[simp] theorem Config.rpd_losLimit : Config.rpd.losLimit = 84 := rfl
@[simp] theorem Config.rpd_syncNib1 : Config.rpd.syncNib1 = 0xA := rfl
@[simp] theorem Config.rpd_syncNib2 : Config.rpd.syncNib2 = 0x5 := rfl
@[simp] theorem Config.rpd_degQ6Full : Config.rpd.degQ6Full = 23040 := rfl
@[simp] theorem Config.rpd_degQ11Full : Config.rpd.degQ11Full = 737280 := rfl
@[simp] theorem Config.rpd_maxPayload : Config.rpd.maxPayload = none := rfl
@[simp] theorem Config.rpd_evqDepth : Config.rpd.evqDepth = none := rfl
theorem Config.toRad_some {c : Config} {f : Rat → ℝ} (h : c.toRadFn = some f) : c.toRad = f := by
  simp only [Config.toRad, h]
theorem Config.toRad_none {c : Config} (h : c.toRadFn = none) (deg : Rat) : c.toRad deg = deg * Real.pi / 180 := by
  simp only [Config.toRad, h]
@[simp] theorem Config.rpd_toRad (deg : Rat) : Config.rpd.toRad deg = deg * Real.pi / 180 := rfl
@[simp] theorem Radians.value_eq (c : Config) (x : Radians) : x.value c = c.toRad x.deg := rfl
@[simp] theorem Config.rpd_now : Config.rpd.now = Config.clock := rfl

/-- One gap of the clock, which is never negative. -/
theorem Config.clock_le_succ (k : Nat) : Config.clock k ≤ Config.clock (k + 1) := by
  have h : (0 : Rat) ≤ (Config.clockGap (k + 1)).val := (Config.clockGap (k + 1)).property
  simp only [Config.clock]
  linarith

end Sys2Proof
end

