-- ==== Sys2Proof/Laws/State.lean ====
section
/-! SUPPORT. One lemma per field per update of the state: what each field holds after the operations that write it, so
that no later proof unfolds a record update. -/

namespace Sys2Proof.Machine

/-! ## `State.emits` -/

@[simp] theorem State.emits_mode (es : List Event) (s : State) :
    (s.emits es).mode = s.mode := rfl

@[simp] theorem State.emits_expect (es : List Event) (s : State) :
    (s.emits es).expect = s.expect := rfl

@[simp] theorem State.emits_hp (es : List Event) (s : State) :
    (s.emits es).hp = s.hp := rfl

@[simp] theorem State.emits_pl (es : List Event) (s : State) :
    (s.emits es).pl = s.pl := rfl

@[simp] theorem State.emits_sd (es : List Event) (s : State) :
    (s.emits es).sd = s.sd := rfl

@[simp] theorem State.emits_xd (es : List Event) (s : State) :
    (s.emits es).xd = s.xd := rfl

@[simp] theorem State.emits_port (es : List Event) (s : State) :
    (s.emits es).port = s.port := rfl

@[simp] theorem State.emits_events (es : List Event) (s : State) :
    (s.emits es).events = s.events ++ es := rfl

@[simp] theorem State.emits_consumer (es : List Event) (s : State) :
    (s.emits es).consumer = s.consumer := rfl

/-! ## `State.emit` -/

@[simp] theorem State.emit_mode (e : Event) (s : State) :
    (s.emit e).mode = s.mode := rfl

@[simp] theorem State.emit_expect (e : Event) (s : State) :
    (s.emit e).expect = s.expect := rfl

@[simp] theorem State.emit_hp (e : Event) (s : State) :
    (s.emit e).hp = s.hp := rfl

@[simp] theorem State.emit_pl (e : Event) (s : State) :
    (s.emit e).pl = s.pl := rfl

@[simp] theorem State.emit_sd (e : Event) (s : State) :
    (s.emit e).sd = s.sd := rfl

@[simp] theorem State.emit_xd (e : Event) (s : State) :
    (s.emit e).xd = s.xd := rfl

@[simp] theorem State.emit_port (e : Event) (s : State) :
    (s.emit e).port = s.port := rfl

@[simp] theorem State.emit_events (e : Event) (s : State) :
    (s.emit e).events = s.events ++ [e] := rfl

@[simp] theorem State.emit_consumer (e : Event) (s : State) :
    (s.emit e).consumer = s.consumer := rfl

/-! ## `abortSession` -/

@[simp] theorem abortSession_mode (c : Config) (r : EndReason) (s : State) :
    (abortSession c r s).mode = .idle := rfl

@[simp] theorem abortSession_expect (c : Config) (r : EndReason) (s : State) :
    (abortSession c r s).expect = s.expect := rfl

@[simp] theorem abortSession_hp (c : Config) (r : EndReason) (s : State) :
    (abortSession c r s).hp = s.hp := rfl

@[simp] theorem abortSession_pl (c : Config) (r : EndReason) (s : State) :
    (abortSession c r s).pl = s.pl := rfl

@[simp] theorem abortSession_sd (c : Config) (r : EndReason) (s : State) :
    (abortSession c r s).sd = s.sd := rfl

@[simp] theorem abortSession_xd (c : Config) (r : EndReason) (s : State) :
    (abortSession c r s).xd = s.xd := rfl

@[simp] theorem abortSession_port (c : Config) (r : EndReason) (s : State) :
    (abortSession c r s).port = s.port := rfl

@[simp] theorem abortSession_events (c : Config) (r : EndReason) (s : State) :
    (abortSession c r s).events = s.events ++ abortEvents c r s := rfl

@[simp] theorem abortSession_consumer (c : Config) (r : EndReason) (s : State) :
    (abortSession c r s).consumer = s.consumer := rfl

/-! ## `State.powerOn` -/

@[simp] theorem State.powerOn_mode (s : State) :
    (s.powerOn).mode = .idle := rfl

@[simp] theorem State.powerOn_expect (s : State) :
    (s.powerOn).expect = .single := rfl

@[simp] theorem State.powerOn_hp (s : State) :
    (s.powerOn).hp = .zero := rfl

@[simp] theorem State.powerOn_pl (s : State) :
    (s.powerOn).pl = .zero := rfl

@[simp] theorem State.powerOn_sd (s : State) :
    (s.powerOn).sd = .zero := rfl

@[simp] theorem State.powerOn_xd (s : State) :
    (s.powerOn).xd = .zero := rfl

@[simp] theorem State.powerOn_port (s : State) :
    (s.powerOn).port = s.port := rfl

@[simp] theorem State.powerOn_events (s : State) :
    (s.powerOn).events = s.events := rfl

@[simp] theorem State.powerOn_consumer (s : State) :
    (s.powerOn).consumer = s.consumer := rfl

/-! ## `State.sessionStart` -/

@[simp] theorem State.sessionStart_mode (e : Expect) (s : State) :
    (s.sessionStart e).mode = .hdr := rfl

@[simp] theorem State.sessionStart_expect (e : Expect) (s : State) :
    (s.sessionStart e).expect = e := rfl

@[simp] theorem State.sessionStart_hp (e : Expect) (s : State) :
    (s.sessionStart e).hp = .zero := rfl

@[simp] theorem State.sessionStart_pl (e : Expect) (s : State) :
    (s.sessionStart e).pl = .zero := rfl

@[simp] theorem State.sessionStart_sd (e : Expect) (s : State) :
    (s.sessionStart e).sd = .zero := rfl

@[simp] theorem State.sessionStart_xd (e : Expect) (s : State) :
    (s.sessionStart e).xd = .zero := rfl

@[simp] theorem State.sessionStart_port (e : Expect) (s : State) :
    (s.sessionStart e).port = s.port := rfl

@[simp] theorem State.sessionStart_events (e : Expect) (s : State) :
    (s.sessionStart e).events = s.events := rfl

@[simp] theorem State.sessionStart_consumer (e : Expect) (s : State) :
    (s.sessionStart e).consumer = s.consumer := rfl

/-! ## `discardBytes` -/

@[simp] theorem discardBytes_mode (c : Config) (n : Nat) (s : State) :
    (discardBytes c n s).mode = s.mode := rfl

@[simp] theorem discardBytes_expect (c : Config) (n : Nat) (s : State) :
    (discardBytes c n s).expect = s.expect := rfl

@[simp] theorem discardBytes_hp (c : Config) (n : Nat) (s : State) :
    (discardBytes c n s).hp = s.hp := rfl

@[simp] theorem discardBytes_pl (c : Config) (n : Nat) (s : State) :
    (discardBytes c n s).pl = s.pl := rfl

@[simp] theorem discardBytes_sd (c : Config) (n : Nat) (s : State) :
    (discardBytes c n s).sd = s.sd := rfl

@[simp] theorem discardBytes_xd (c : Config) (n : Nat) (s : State) :
    (discardBytes c n s).xd = discardRegs c n s.xd := rfl

@[simp] theorem discardBytes_port (c : Config) (n : Nat) (s : State) :
    (discardBytes c n s).port = s.port := rfl

@[simp] theorem discardBytes_events (c : Config) (n : Nat) (s : State) :
    (discardBytes c n s).events = s.events ++ discardEvents c n s.xd := rfl

@[simp] theorem discardBytes_consumer (c : Config) (n : Nat) (s : State) :
    (discardBytes c n s).consumer = s.consumer := rfl

/-! ## `State.setPhase` -/

@[simp] theorem State.setPhase_mode (ph : Phase) (s : State) :
    (s.setPhase ph).mode = s.mode := rfl

@[simp] theorem State.setPhase_expect (ph : Phase) (s : State) :
    (s.setPhase ph).expect = s.expect := rfl

@[simp] theorem State.setPhase_hp (ph : Phase) (s : State) :
    (s.setPhase ph).hp = s.hp := rfl

@[simp] theorem State.setPhase_pl (ph : Phase) (s : State) :
    (s.setPhase ph).pl = s.pl := rfl

@[simp] theorem State.setPhase_sd (ph : Phase) (s : State) :
    (s.setPhase ph).sd = s.sd := rfl

@[simp] theorem State.setPhase_xd (ph : Phase) (s : State) :
    (s.setPhase ph).xd = { s.xd with ph := ph } := rfl

@[simp] theorem State.setPhase_port (ph : Phase) (s : State) :
    (s.setPhase ph).port = s.port := rfl

@[simp] theorem State.setPhase_events (ph : Phase) (s : State) :
    (s.setPhase ph).events = s.events := rfl

@[simp] theorem State.setPhase_consumer (ph : Phase) (s : State) :
    (s.setPhase ph).consumer = s.consumer := rfl

/-! ## `State.consumerReads` -/

@[simp] theorem State.consumerReads_mode (s : State) :
    (s.consumerReads).mode = s.mode := rfl

@[simp] theorem State.consumerReads_expect (s : State) :
    (s.consumerReads).expect = s.expect := rfl

@[simp] theorem State.consumerReads_hp (s : State) :
    (s.consumerReads).hp = s.hp := rfl

@[simp] theorem State.consumerReads_pl (s : State) :
    (s.consumerReads).pl = s.pl := rfl

@[simp] theorem State.consumerReads_sd (s : State) :
    (s.consumerReads).sd = s.sd := rfl

@[simp] theorem State.consumerReads_xd (s : State) :
    (s.consumerReads).xd = s.xd := rfl

@[simp] theorem State.consumerReads_port (s : State) :
    (s.consumerReads).port = s.port := rfl

@[simp] theorem State.consumerReads_events (s : State) :
    (s.consumerReads).events = s.events := rfl

@[simp] theorem State.consumerReads_consumer (s : State) :
    (s.consumerReads).consumer = catchUp Config.rpd s.events s.consumer := rfl

/-! ## `emits` composes -/

@[simp] theorem State.emits_nil (s : State) : s.emits [] = s := by simp [State.emits]

@[simp] theorem State.emits_emits (s : State) (as bs : List Event) : (s.emits as).emits bs = s.emits (as ++ bs) := by
  simp [State.emits]

end Sys2Proof.Machine
end

