-- ==== Sys2Proof/Laws/Ops.lean ====
section
/-! SUPPORT. For each shared operation, once, everything it can do: if it answers `next t`, then one of these cases
holds. Provers cite these instead of unfolding the operations. -/

namespace Sys2Proof.Machine

/-! ## Sequencing -/

@[simp] theorem andThen_next (s : State) (f : State → Result) : andThen (.next s) f = f s := rfl
@[simp] theorem andThen_fault (e : Fault) (f : State → Result) : andThen (.fault e) f = .fault e := rfl
@[simp] theorem andThen_refused (e : Refusal) (f : State → Result) : andThen (.refused e) f = .refused e := rfl

/-- A sequence answers a next state exactly when both parts do. -/
theorem andThen_eq_next {r : Result} {f : State → Result} {t : State} :
    andThen r f = .next t ↔ ∃ s, r = .next s ∧ f s = .next t := by
  cases r <;> simp [andThen]

theorem andThen_assoc (r : Result) (f g : State → Result) :
    andThen (andThen r f) g = andThen r (fun s => andThen (f s) g) := by
  cases r <;> rfl

@[simp] theorem feed_nil (c : Config) (s : State) : feed c [] s = .next s := rfl
@[simp] theorem feed_cons (c : Config) (b : Byte) (bs : List Byte) (s : State) :
    feed c (b :: bs) s = andThen (rxByte c b s) (feed c bs) := rfl

/-- Feeding two pieces one after the other is feeding them joined. -/
theorem feed_append (c : Config) (as bs : List Byte) (s : State) :
    feed c (as ++ bs) s = andThen (feed c as s) (feed c bs) := by
  induction as generalizing s with
  | nil => rfl
  | cons a as ih =>
    simp only [List.cons_append, feed_cons, andThen_assoc]
    congr 1
    funext t
    exact ih t

/-- A property that one byte carries from state to state holds after any number of bytes. -/
theorem feed_induction {c : Config} {P : State → Prop} (step : ∀ b s t, P s → rxByte c b s = .next t → P t) :
    ∀ (bs : List Byte) (s t : State), P s → feed c bs s = .next t → P t := by
  intro bs
  induction bs with
  | nil => intro s t hs h; cases h; exact hs
  | cons b bs ih =>
    intro s t hs h
    obtain ⟨u, hu, ht⟩ := andThen_eq_next.1 h
    exact ih u t (step b s u hs hu) ht

/-- A relation to the start that one byte extends holds after any number of bytes. -/
theorem feed_relation {c : Config} {R : State → State → Prop} (refl : ∀ s, R s s)
    (step : ∀ r b s t, R r s → rxByte c b s = .next t → R r t) (bs : List Byte) (s t : State)
    (h : feed c bs s = .next t) : R s t :=
  feed_induction (P := R s) (fun b u v hu hv => step s b u v hu hv) bs s t (refl s) h

/-! ## Ending a session -/

/-- `abortSession` is `emits` and MODE := IDLE. -/
theorem abortSession_eq (c : Config) (r : EndReason) (s : State) :
    abortSession c r s = { s with mode := .idle, events := s.events ++ abortEvents c r s } := rfl

theorem abortEvents_idle {c : Config} {r : EndReason} {s : State} (h : s.mode = .idle) : abortEvents c r s = [] := by
  simp [abortEvents, h]

/-- What `AbortSession` can report: nothing, or at most one Truncated and then SessionEnd. -/
theorem abortEvents_cases (c : Config) (r : EndReason) (s : State) :
    (s.mode = .idle ∧ abortEvents c r s = [])
      ∨ (s.mode ≠ .idle ∧ (abortEvents c r s = [.sessionEnd r]
          ∨ ∃ src n, abortEvents c r s = [.truncated src n, .sessionEnd r])) := by
  unfold abortEvents
  split <;> rename_i h
  · exact .inl ⟨h, rfl⟩
  · refine .inr ⟨by simp [h], ?_⟩
    split <;> simp
  · refine .inr ⟨by simp [h], ?_⟩
    split <;> simp
  · exact .inr ⟨by simp [h], .inl rfl⟩
  · exact .inr ⟨by simp [h], .inl rfl⟩

/-- In HDR with a complete descriptor the session ends without Truncated (R111's guard). -/
theorem abortEvents_full {r : EndReason} {s : State} (hm : s.mode = .hdr) (hc : s.hp.cnt.toNat = 7) :
    abortEvents Config.rpd r s = [.sessionEnd r] := by
  simp [abortEvents, hm, hc]

/-! ## Sending a frame -/

/-- Every frame fits the modelled instance, whose `MAX_PAYLOAD` is not set. -/
@[simp] theorem payloadFits_rpd (p : List Byte) : payloadFits Config.rpd p = true := rfl

@[simp] theorem sendFrame_rpd (op : Byte) (p : List Byte) (s : State) :
    sendFrame Config.rpd op p s = .next (s.emit (.txFrame (commandFrame Config.rpd op p))) := rfl

/-! ## Response header -/

/-- `HP_BUF` holds 7 bytes, so the parse of it is never Truncated (R156). -/
theorem parseHeader_buf (c : Config) (buf : Vector Byte 7) : parseHeader c buf.toList ≠ .truncated := by
  obtain ⟨⟨l⟩, h⟩ := buf
  simp only [List.size_toArray] at h
  match l, h with
  | [a0, a1, a2, a3, a4, a5, a6], _ => simp [parseHeader]; split <;> simp

/-- What a descriptor byte can do (R155). -/
theorem headerByte_next {b : Byte} {s t : State} (h : headerByte Config.rpd b s = .next t) :
    (∃ hc : s.hp.cnt.toNat < 6,
        t = { s with hp := { cnt := s.hp.cnt + 1, buf := s.hp.buf.set s.hp.cnt.toNat b (by omega) } })
      ∨ (s.hp.cnt = 6 ∧ t = headerComplete Config.rpd { s with hp := { cnt := 7, buf := s.hp.buf.set 6 b } }) := by
  unfold headerByte at h
  split at h
  · rename_i hc
    by_cases h6 : s.hp.cnt = 6
    · refine .inr ⟨h6, ?_⟩
      simp [h6] at h
      exact h.symm
    · have h6' : s.hp.cnt.toNat ≠ 6 := fun e => h6 (BitVec.eq_of_toNat_eq (by simpa using e))
      have h7 : (s.hp.cnt + 1).toNat ≠ 7 := by
        have := BitVec.toNat_add s.hp.cnt 1
        simp at this ⊢
        omega
      simp only [Config.rpd_hdrLen, h7, if_false] at h
      refine .inl ⟨by omega, ?_⟩
      cases h; rfl
  · cases h

/-- What the seventh byte's step can do to the state it has collected in (R156). -/
theorem headerComplete_cases (s : State) (hm : s.mode = .hdr) (hc : s.hp.cnt = 7) :
    (headerComplete Config.rpd s = { s with
        mode := .idle, events := s.events ++ [.invalidSync .hdr, .sessionEnd .fatal] })
      ∨ (∃ d : Descriptor, headerComplete Config.rpd s = { s with
          mode := .idle
          events := s.events ++ [.descriptor d.len d.mode d.dtype, .unexpectedResponse d.len d.dtype s.expect,
            .sessionEnd .fatal] })
      ∨ (∃ d : Descriptor, s.expect = .std ∧ headerComplete Config.rpd s = { s with
          mode := .std, events := s.events ++ [.descriptor d.len d.mode d.dtype] })
      ∨ (∃ d : Descriptor, s.expect = .exp ∧ headerComplete Config.rpd s = { s with
          mode := .exp, events := s.events ++ [.descriptor d.len d.mode d.dtype] })
      ∨ (∃ d : Descriptor, s.expect = .single ∧ d.len ≠ 0 ∧ headerComplete Config.rpd s = { s with
          mode := .payload, pl := { len := d.len, idx := 0 }
          events := s.events ++ [.descriptor d.len d.mode d.dtype] })
      ∨ (∃ d : Descriptor, s.expect = .single ∧ headerComplete Config.rpd s = { s with
          mode := .idle, pl := { len := d.len, idx := 0 }
          events := s.events ++ [.descriptor d.len d.mode d.dtype, .payloadEnd 0, .sessionEnd .complete] }) := by
  have hc' : s.hp.cnt.toNat = 7 := by rw [hc]; rfl
  unfold headerComplete
  split
  · rename_i h; exact absurd h (parseHeader_buf _ _)
  · left; simp [raiseFatal, abortSession, abortEvents, hm, hc', State.emit, State.emits]
  · rename_i d h
    right
    split
    · right
      unfold routeDescriptor
      simp only [State.emit_expect]
      split <;> rename_i he
      · exact .inl ⟨d, he, rfl⟩
      · exact .inr (.inl ⟨d, he, rfl⟩)
      · right; right
        split
        · right
          refine ⟨d, he, ?_⟩
          simp [abortSession, abortEvents, hm, hc', State.emit, State.emits]
        · exact .inl ⟨d, he, by assumption, rfl⟩
    · left
      refine ⟨d, ?_⟩
      simp [raiseFatal, abortSession, abortEvents, hm, hc', State.emit, State.emits]

/-! ## Payload -/

/-- What a payload byte can do (R160). -/
theorem payloadByte_next {b : Byte} {s t : State} (hm : s.mode = .payload)
    (h : payloadByte Config.rpd b s = .next t) :
    s.pl.idx.toNat + 1 < 2 ^ 30
      ∧ ((s.pl.idx.toNat + 1 ≠ s.pl.len.toNat ∧ t = { s with
            pl := { s.pl with idx := s.pl.idx + 1 }, events := s.events ++ [.payloadByte s.pl.idx b] })
        ∨ (s.pl.idx.toNat + 1 = s.pl.len.toNat ∧ t = { s with
            mode := .idle, pl := { s.pl with idx := s.pl.len }
            events := s.events ++ [.payloadByte s.pl.idx b, .payloadEnd s.pl.len, .sessionEnd .complete] })) := by
  unfold payloadByte at h
  split at h
  · cases h
  · rename_i hne
    have hlt : s.pl.idx.toNat + 1 < 2 ^ 30 := by
      have h1 := s.pl.idx.isLt
      have h2 : s.pl.idx.toNat ≠ 2 ^ 30 - 1 := fun e => hne (BitVec.eq_of_toNat_eq (by simpa using e))
      omega
    have hadd : (s.pl.idx + 1).toNat = s.pl.idx.toNat + 1 := by
      rw [BitVec.toNat_add]; exact Nat.mod_eq_of_lt hlt
    refine ⟨hlt, ?_⟩
    simp only at h
    split at h
    · rename_i he
      right
      refine ⟨by rw [← hadd, he], ?_⟩
      cases h
      simp only [abortSession, abortEvents, hm, State.emit, State.emits, he]
      simp
    · rename_i he
      left
      refine ⟨fun e => he (BitVec.eq_of_toNat_eq (by rw [hadd, e])), ?_⟩
      cases h
      rfl

/-! ## Standard scan -/

/-- What a standard byte can do (R170 to R175). -/
theorem stdByte_next {b : Byte} {s t : State} (h : stdByte b s = .next t) :
    (s.sd.pos = 0 ∧ t = stdByte0 b s) ∨ (s.sd.pos = 1 ∧ t = stdByte1 b s) ∨ (s.sd.pos = 2 ∧ t = stdByte2 b s)
      ∨ (s.sd.pos = 3 ∧ t = stdByte3 b s) ∨ (s.sd.pos = 4 ∧ t = stdByte4 b s) := by
  unfold stdByte at h
  have e : ∀ n : Nat, n < 8 → s.sd.pos.toNat = n → s.sd.pos = BitVec.ofNat 3 n :=
    fun n hn hp => BitVec.eq_of_toNat_eq (by simp [hp]; omega)
  split at h <;> first | (rename_i hp; cases h; have := e _ (by omega) hp; simp_all) | cases h

/-- A standard byte changes the standard registers and adds events, nothing else. -/
theorem stdByte_frame {b : Byte} {s t : State} (h : stdByte b s = .next t) :
    t = { s with sd := t.sd, events := t.events } := by
  rcases stdByte_next h with ⟨-, rfl⟩ | ⟨-, rfl⟩ | ⟨-, rfl⟩ | ⟨-, rfl⟩ | ⟨-, rfl⟩ <;> rfl

/-! ## Express scan -/

/-- What an express byte can do (R190, R192, R193, R195). -/
theorem expByte_next {c : Config} {b : Byte} {s t : State} (h : expByte c b s = .next t) :
    (s.xd.ph = .hunt0 ∧ t = hunt0 c b s) ∨ (s.xd.ph = .hunt1 ∧ t = hunt1 c b s)
      ∨ (s.xd.ph = .body ∧ s.xd.pos = 2 ∧ t = refByteLow b s)
      ∨ (s.xd.ph = .body ∧ s.xd.pos = 3 ∧ t = refByteHigh c b s)
      ∨ (s.xd.ph = .body ∧ ∃ (k : Fin 16) (j : Nat), j < 5 ∧ s.xd.pos.toNat = 4 + 5 * k.val + j ∧ t = { s with
          xd := if s.xd.pos.toNat + 1 = c.expUnit then packetCommit (cabinLatch k j b s.xd)
            else { cabinLatch k j b s.xd with pos := s.xd.pos + 1 } }) := by
  unfold expByte at h
  split at h <;> rename_i hph
  · cases h; exact .inl ⟨hph, rfl⟩
  · cases h; exact .inr (.inl ⟨hph, rfl⟩)
  · right; right
    split at h
    · cases h; exact .inl ⟨hph, by assumption, rfl⟩
    · right
      split at h
      · cases h; exact .inl ⟨hph, by assumption, rfl⟩
      · right
        unfold cabinByte at h
        simp only at h
        split at h
        · rename_i hk
          cases h
          exact ⟨hph, ⟨_, hk.2⟩, _, Nat.mod_lt _ (by decide), by simp only; omega, rfl⟩
        · cases h

/-- A cabin byte in its place, forwards: what it does is the last case of `expByte_next`. -/
theorem expByte_cabin {c : Config} {b : Byte} {s : State} (k : Fin 16) (j : Nat) (hph : s.xd.ph = .body) (hj : j < 5)
    (hp : s.xd.pos.toNat = 4 + 5 * k.val + j) :
    expByte c b s = .next { s with
      xd := if s.xd.pos.toNat + 1 = c.expUnit then packetCommit (cabinLatch k j b s.xd)
        else { cabinLatch k j b s.xd with pos := s.xd.pos + 1 } } := by
  have h2 : s.xd.pos ≠ 2 := fun e => by rw [e] at hp; simp at hp; omega
  have h3 : s.xd.pos ≠ 3 := fun e => by rw [e] at hp; simp at hp; omega
  have hk := k.isLt
  have ek : (s.xd.pos.toNat - 4) / 5 = k.val := by omega
  have ej : (s.xd.pos.toNat - 4) % 5 = j := by omega
  unfold expByte
  simp only [hph, h2, h3, if_false]
  unfold cabinByte
  have hc : 4 ≤ s.xd.pos.toNat ∧ (s.xd.pos.toNat - 4) / 5 < 16 := by omega
  simp only [hc, and_self, dite_true, ej]
  congr 4 <;> simp [ek]

/-- The phase-and-flag part of a hunting step: only the search registers change. -/
theorem hunt0_frame (c : Config) (b : Byte) (s : State) :
    hunt0 c b s = { s with xd := (hunt0 c b s).xd, events := (hunt0 c b s).events } := by
  unfold hunt0; split <;> rfl

theorem hunt1_frame (c : Config) (b : Byte) (s : State) :
    hunt1 c b s = { s with xd := (hunt1 c b s).xd, events := (hunt1 c b s).events } := by
  unfold hunt1; split
  · rfl
  · split <;> rfl

/-- An express byte changes the express registers and adds events, nothing else. -/
theorem expByte_frame {c : Config} {b : Byte} {s t : State} (h : expByte c b s = .next t) :
    t = { s with xd := t.xd, events := t.events } := by
  rcases expByte_next h with ⟨-, rfl⟩ | ⟨-, rfl⟩ | ⟨-, -, rfl⟩ | ⟨-, -, rfl⟩ | ⟨-, -, -, -, -, rfl⟩
  · exact hunt0_frame c b s
  · exact hunt1_frame c b s
  · rfl
  · rfl
  · rfl

/-! ## Every inbound byte -/

/-- The header's bytes leave everything but `MODE`, its own registers, the payload registers and the events. -/
theorem headerByte_frame {b : Byte} {s t : State} (hm : s.mode = .hdr) (h : headerByte Config.rpd b s = .next t) :
    t = { s with mode := t.mode, hp := t.hp, pl := t.pl, events := t.events } := by
  rcases headerByte_next h with ⟨_, rfl⟩ | ⟨_, rfl⟩
  · rfl
  · rcases headerComplete_cases { s with hp := { cnt := 7, buf := s.hp.buf.set 6 b } } hm rfl with
      e | ⟨d, e⟩ | ⟨d, -, e⟩ | ⟨d, -, e⟩ | ⟨d, -, -, e⟩ | ⟨d, -, e⟩ <;> rw [e]

/-- Payload bytes leave everything but `MODE`, the payload registers and the events. -/
theorem payloadByte_frame {b : Byte} {s t : State} (hm : s.mode = .payload)
    (h : payloadByte Config.rpd b s = .next t) : t = { s with mode := t.mode, pl := t.pl, events := t.events } := by
  rcases payloadByte_next hm h with ⟨-, ⟨-, rfl⟩ | ⟨-, rfl⟩⟩ <;> rfl

/-- What an inbound byte can do, by MODE (R108). -/
theorem rxByte_next {c : Config} {b : Byte} {s t : State} (h : rxByte c b s = .next t) :
    (s.mode = .idle ∧ t = s) ∨ (s.mode = .hdr ∧ headerByte c b s = .next t)
      ∨ (s.mode = .payload ∧ payloadByte c b s = .next t) ∨ (s.mode = .std ∧ stdByte b s = .next t)
      ∨ (s.mode = .exp ∧ expByte c b s = .next t) := by
  unfold rxByte at h
  split at h <;> rename_i hm <;> simp_all

/-- No inbound byte touches `EXPECT`, the port or the consumer. -/
theorem rxByte_frame {b : Byte} {s t : State} (h : rxByte Config.rpd b s = .next t) :
    t.expect = s.expect ∧ t.port = s.port ∧ t.consumer = s.consumer := by
  rcases rxByte_next h with ⟨-, rfl⟩ | ⟨hm, h⟩ | ⟨hm, h⟩ | ⟨-, h⟩ | ⟨-, h⟩
  · simp
  · rw [headerByte_frame hm h]; simp
  · rw [payloadByte_frame hm h]; simp
  · rw [stdByte_frame h]; simp
  · rw [expByte_frame h]; simp

end Sys2Proof.Machine
end

