-- ==== Sys2Proof/Machine/Configured.lean ====
section
/-! DEFINITION. The block under any configuration: R12's `step : Config → State → HostOp → Result`, and the same machine
behind a port. The modelled instance `Config.rpd` gives `exec` and `step` (log 9). -/

namespace Sys2Proof.Machine

/-- The meaning of every instruction under configuration `c`. -/
def execIn (c : Config) (i : Instr) (s : State) : Result :=
  match i with
  | .getInfo => execGetInfoIn c s
  | .getHealth => execGetHealthIn c s
  | .getSampleRate => execGetSampleRateIn c s
  | .scan => execScanIn c s
  | .expressScan => execExpressScanIn c s
  | .stopScan => execStopScanIn c s
  | .resetDev => execResetDevIn c s
  | .setMotorPwm v => execSetMotorPwmIn c v s
  | .encodeAny op p => execEncodeAnyIn c op p s
  | .reset => execResetIn c s
  | .start e => execStartIn c e s
  | .stop => execStopIn c s
  | .rx b => execRxIn c b s
  | .encode op p => execEncodeIn c op p s
  | .xfail => execXfailIn c s
  | .hostOpReserved w _ => execHostOpReserved w s
  | .respDesc len mode dtype => execRespDescIn c len mode dtype s
  | .stdUnit u => execStdUnitIn c u s
  | .expPacket p => execExpPacketIn c p s
  | .expCabin cab => execExpCabinIn c cab s

/-- One step of the machine behind a port, under configuration `c`. -/
def stepIn (c : Config) (s : State) : Result := runItem c (execIn c) s

/-- A host operation: its word, and the payload list that comes with ENCODE (R100, R101). -/
structure HostOp where
  word    : HostWord
  payload : List Byte
deriving DecidableEq, Repr

/-- R12's step: ONE host operation, atomically, under configuration `c`. It answers the next state and the step's events
in order, or Refused with the reason. A fault is the model's own stop (log 8). -/
def hostStep (c : Config) (s : State) (op : HostOp) : Host.Outcome (State × List Event) Fault Refusal :=
  match decodeHostOp c op.word op.payload with
  | .error why => .refused (refusalOf why)
  | .ok i =>
    match execIn c i s with
    | .next t => .next (t, t.events.drop s.events.length)
    | .fault e => .fault e
    | .refused why => .refused why

end Sys2Proof.Machine
end

