-- ==== Sys2Proof/Laws/Configured.lean ====
section
/-! SUPPORT. The machine under any configuration: in the modelled instance it is `exec` and `step`; and under every
configuration an instruction only adds events at the end of the stream, so that R12's step answers exactly them. -/

namespace Sys2Proof.Machine

/-! ## The modelled instance -/

theorem execIn_rpd (i : Instr) (s : State) : execIn Config.rpd i s = exec i s := by cases i <;> rfl

theorem stepIn_rpd (s : State) : stepIn Config.rpd s = step s := by
  have h : execIn Config.rpd = exec := funext fun i => funext fun s => execIn_rpd i s
  simp [stepIn, step, h]

/-- In the modelled instance no payload is too long (R7), so the decoder never says so. -/
theorem decode_rpd_ne_payloadTooLong (tx : Transaction) : decode Config.rpd tx ≠ .error .payloadTooLong := by
  cases tx with
  | hostOp w p => simp only [decode, decodeHostOp]; split_ifs <;> simp_all
  | command frame => simp only [decode, decodeCommand]; split <;> [split_ifs; skip] <;> simp_all
  | feed f bytes =>
    cases f <;> simp only [decode, decodeUnit, decodeRespDesc, decodeExpPacket] <;>
      (repeat' split) <;> exact fun h => nomatch h

/-- In the modelled instance an item that is no instruction is refused by the decoder's name. -/
theorem refusalOf_rpd {tx : Transaction} {why : DecodeError} (h : decode Config.rpd tx = .error why) :
    refusalOf why = .undecodable why := by
  cases why <;> first | rfl | exact absurd h (decode_rpd_ne_payloadTooLong tx)

/-! ## Events only grow, whatever the configuration -/

theorem State.emits_prefix (es : List Event) (s : State) : s.events <+: (s.emits es).events := ⟨es, rfl⟩

theorem abortSession_prefix (c : Config) (r : EndReason) (s : State) : s.events <+: (abortSession c r s).events :=
  ⟨_, rfl⟩

theorem raiseFatal_prefix (c : Config) (e : Event) (r : EndReason) (s : State) :
    s.events <+: (raiseFatal c e r s).events := (s.emits_prefix [e]).trans (abortSession_prefix ..)

theorem routeDescriptor_prefix (c : Config) (d : Descriptor) (s : State) :
    s.events <+: (routeDescriptor c d s).events := by
  unfold routeDescriptor
  split
  · exact List.prefix_rfl
  · exact List.prefix_rfl
  · simp only
    split
    · exact (s.emits_prefix [.payloadEnd 0]).trans ⟨_, rfl⟩
    · exact List.prefix_rfl

theorem headerComplete_prefix (c : Config) (s : State) : s.events <+: (headerComplete c s).events := by
  unfold headerComplete
  split
  · exact raiseFatal_prefix ..
  · exact raiseFatal_prefix ..
  · next d _ =>
    refine (s.emits_prefix [.descriptor d.len d.mode d.dtype]).trans ?_
    simp only
    split
    · exact routeDescriptor_prefix ..
    · exact raiseFatal_prefix ..

theorem headerByte_prefix {c : Config} {b : Byte} {s t : State} (h : headerByte c b s = .next t) :
    s.events <+: t.events := by
  unfold headerByte at h
  split at h
  · next hlt =>
    simp only at h
    split at h <;> cases h
    · exact headerComplete_prefix c
        { s with hp := { cnt := s.hp.cnt + 1, buf := s.hp.buf.set s.hp.cnt.toNat b hlt } }
    · exact List.prefix_rfl
  · cases h

theorem payloadByte_prefix {c : Config} {b : Byte} {s t : State} (h : payloadByte c b s = .next t) :
    s.events <+: t.events := by
  unfold payloadByte at h
  split at h
  · cases h
  · simp only at h
    refine (s.emits_prefix [.payloadByte s.pl.idx b]).trans ?_
    split at h <;> cases h
    · exact ⟨_, (List.append_assoc ..).symm⟩
    · exact List.prefix_rfl

theorem stdByte_prefix {b : Byte} {s t : State} (h : stdByte b s = .next t) : s.events <+: t.events := by
  unfold stdByte at h
  split at h <;> cases h
  · exact ⟨_, rfl⟩
  · exact List.prefix_rfl
  · exact List.prefix_rfl
  · exact List.prefix_rfl
  · exact ⟨_, rfl⟩

theorem hunt1_prefix (c : Config) (b : Byte) (s : State) : s.events <+: (hunt1 c b s).events := by
  unfold hunt1
  split_ifs
  · exact List.prefix_rfl
  · exact s.emits_prefix _
  · exact s.emits_prefix _

theorem hunt0_prefix (c : Config) (b : Byte) (s : State) : s.events <+: (hunt0 c b s).events := by
  unfold hunt0
  split
  · exact List.prefix_rfl
  · exact s.emits_prefix _

theorem expByte_prefix {c : Config} {b : Byte} {s t : State} (h : expByte c b s = .next t) :
    s.events <+: t.events := by
  unfold expByte at h
  split at h
  · cases h; exact hunt0_prefix c b s
  · cases h; exact hunt1_prefix c b s
  · split_ifs at h
    · cases h; exact List.prefix_rfl
    · cases h; exact s.emits_prefix _
    · unfold cabinByte at h
      simp only at h
      split at h <;> cases h
      exact List.prefix_rfl

theorem rxByte_prefix {c : Config} {b : Byte} {s t : State} (h : rxByte c b s = .next t) : s.events <+: t.events := by
  unfold rxByte at h
  split at h
  · cases h; exact List.prefix_rfl
  · exact headerByte_prefix h
  · exact payloadByte_prefix h
  · exact stdByte_prefix h
  · exact expByte_prefix h

theorem feed_prefix {c : Config} {bs : List Byte} {s t : State} (h : feed c bs s = .next t) : s.events <+: t.events :=
  feed_relation (R := fun s t => s.events <+: t.events) (fun _ => List.prefix_rfl)
    (fun _ _ _ _ hr hb => hr.trans (rxByte_prefix hb)) bs s t h

theorem sendFrame_prefix {c : Config} {op : Byte} {p : List Byte} {s t : State} (h : sendFrame c op p s = .next t) :
    s.events <+: t.events := by
  unfold sendFrame at h
  split at h <;> cases h
  exact s.emits_prefix _

/-- Under every configuration an instruction only adds events, at the end of the stream (20_memory.md R58). -/
theorem execIn_prefix {c : Config} {i : Instr} {s t : State} (h : execIn c i s = .next t) : s.events <+: t.events := by
  cases i with
  | reset => cases h; exact abortSession_prefix c .reset s
  | start e => cases h; exact (abortSession_prefix c .restart s).trans ⟨_, rfl⟩
  | stop => cases h; exact abortSession_prefix ..
  | rx b => exact rxByte_prefix h
  | xfail => cases h; exact raiseFatal_prefix ..
  | hostOpReserved w p => simp only [execIn, execHostOpReserved] at h; split at h <;> cases h
  | respDesc _ _ _ => exact feed_prefix h
  | stdUnit _ => exact feed_prefix h
  | expPacket _ => exact feed_prefix h
  | expCabin _ => exact feed_prefix h
  | getInfo => exact sendFrame_prefix h
  | getHealth => exact sendFrame_prefix h
  | getSampleRate => exact sendFrame_prefix h
  | scan => exact sendFrame_prefix h
  | expressScan => exact sendFrame_prefix h
  | stopScan => exact sendFrame_prefix h
  | resetDev => exact sendFrame_prefix h
  | setMotorPwm _ => exact sendFrame_prefix h
  | encodeAny _ _ => exact sendFrame_prefix h
  | encode _ _ => exact sendFrame_prefix h

/-! ## R12's step -/

/-- The events R12's step answers are exactly those it adds to the stream, in order. -/
theorem hostStep_events {c : Config} {s t : State} {op : HostOp} {es : List Event}
    (h : hostStep c s op = .next (t, es)) : t.events = s.events ++ es := by
  unfold hostStep at h
  split at h
  · cases h
  · split at h
    · next hx =>
      cases h
      obtain ⟨es, he⟩ := execIn_prefix hx
      simp [← he]
    · cases h
    · cases h

/-- A step of the machine behind the port, with a host operation at its head, is R12's step of that one operation, and
then the consumer reads. -/
theorem stepIn_hostOp {c : Config} {s : State} {w : HostWord} {p : List Byte} {rest : List Transaction}
    (hp : s.port = .hostOp w p :: rest) :
    stepIn c s = match hostStep c { s with port := rest } ⟨w, p⟩ with
      | .next (t, _) => .next (t.consumerReadsIn c)
      | .fault e => .fault e
      | .refused why => .refused why := by
  simp only [stepIn, runItem, fetch, hp, decode, hostStep]
  cases decodeHostOp c w p with
  | error why => rfl
  | ok i => simp only; cases execIn c i { s with port := rest } <;> rfl

/-- Under every configuration that bounds it, ENCODE of a longer payload is Refused (R102). -/
theorem hostStep_payloadTooLong {c : Config} {n : Nat} (op : Byte) {p : List Byte} (s : State)
    (hc : c.maxPayload = some n) (hp : n < p.length) :
    hostStep c s ⟨hostWord 4 0 op, p⟩ = .refused (.hostOp .payloadTooLong) := by
  have hr : (hostWordRefusal (hostWord 4 0 op)).isSome = false := by revert op; decide
  have ht : hostTag (hostWord 4 0 op) = 4 := by revert op; decide
  have hf : payloadFits c p = false := by simp [payloadFits, hc, hp]
  simp only [hostStep, decodeHostOp, hr, ht, hf, refusalOf, Bool.false_eq_true, if_false, if_true]

end Sys2Proof.Machine
end

