-- ==== Sys2Proof/Laws/Events.lean ====
section
/-! SUPPORT. What an inbound byte can add to the event stream, by MODE (60_exceptions.md R256), and how the consumer
reads a stream in pieces. -/

namespace Sys2Proof.Machine

/-- The events one inbound byte can add, by MODE and position: the whole list for every step that adds any. -/
inductive RxEvents (b : Byte) (s : State) : List Event → Prop
  | silent : RxEvents b s []
  | badSync : s.mode = .hdr → s.hp.cnt = 6 → RxEvents b s [.invalidSync .hdr, .sessionEnd .fatal]
  | unexpected (d : Descriptor) : s.mode = .hdr → s.hp.cnt = 6 →
      RxEvents b s [.descriptor d.len d.mode d.dtype, .unexpectedResponse d.len d.dtype s.expect, .sessionEnd .fatal]
  | opened (d : Descriptor) : s.mode = .hdr → s.hp.cnt = 6 → RxEvents b s [.descriptor d.len d.mode d.dtype]
  | empty (d : Descriptor) : s.mode = .hdr → s.hp.cnt = 6 →
      RxEvents b s [.descriptor d.len d.mode d.dtype, .payloadEnd 0, .sessionEnd .complete]
  | payload : s.mode = .payload → RxEvents b s [.payloadByte s.pl.idx b]
  | payloadLast : s.mode = .payload → s.pl.idx.toNat + 1 = s.pl.len.toNat →
      RxEvents b s [.payloadByte s.pl.idx b, .payloadEnd s.pl.len, .sessionEnd .complete]
  | stdFlag : s.mode = .std → s.sd.pos = 0 → RxEvents b s (newScanEvents b)
  | stdUnit : s.mode = .std → s.sd.pos = 4 →
      RxEvents b s [stdUnitEvent s.sd.ang (stdDistance b s.sd.dlo) s.sd.q]
  | search (n : Nat) : s.mode = .exp → s.xd.ph ≠ .body → n = 1 ∨ n = 2 →
      RxEvents b s (discardEvents Config.rpd n s.xd)
  | reference : s.mode = .exp → s.xd.ph = .body → s.xd.pos = 3 →
      RxEvents b s (refEvents Config.rpd s.xd (refAngle b s.xd.refLo))

/-- An inbound byte adds one of those lists. -/
theorem rxByte_events {b : Byte} {s t : State} (h : rxByte Config.rpd b s = .next t) :
    ∃ es, RxEvents b s es ∧ t.events = s.events ++ es := by
  rcases rxByte_next h with ⟨-, rfl⟩ | ⟨hm, h⟩ | ⟨hm, h⟩ | ⟨hm, h⟩ | ⟨hm, h⟩
  · exact ⟨[], .silent, by simp⟩
  · rcases headerByte_next h with ⟨_, rfl⟩ | ⟨hc, rfl⟩
    · exact ⟨[], .silent, by simp⟩
    · rcases headerComplete_cases { s with hp := { cnt := 7, buf := s.hp.buf.set 6 b } } hm rfl with
        e | ⟨d, e⟩ | ⟨d, -, e⟩ | ⟨d, -, e⟩ | ⟨d, -, -, e⟩ | ⟨d, -, e⟩ <;> rw [e]
      · exact ⟨_, .badSync hm hc, rfl⟩
      · exact ⟨_, .unexpected d hm hc, rfl⟩
      · exact ⟨_, .opened d hm hc, rfl⟩
      · exact ⟨_, .opened d hm hc, rfl⟩
      · exact ⟨_, .opened d hm hc, rfl⟩
      · exact ⟨_, .empty d hm hc, rfl⟩
  · rcases payloadByte_next hm h with ⟨-, ⟨-, rfl⟩ | ⟨hl, rfl⟩⟩
    · exact ⟨_, .payload hm, rfl⟩
    · exact ⟨_, .payloadLast hm hl, rfl⟩
  · rcases stdByte_next h with ⟨hp, rfl⟩ | ⟨-, rfl⟩ | ⟨-, rfl⟩ | ⟨-, rfl⟩ | ⟨hp, rfl⟩
    · exact ⟨_, .stdFlag hm hp, rfl⟩
    · exact ⟨[], .silent, by simp [stdByte1]⟩
    · exact ⟨[], .silent, by simp [stdByte2]⟩
    · exact ⟨[], .silent, by simp [stdByte3]⟩
    · exact ⟨_, .stdUnit hm hp, rfl⟩
  · rcases expByte_next h with ⟨hph, rfl⟩ | ⟨hph, rfl⟩ | ⟨-, -, rfl⟩ | ⟨hph, hp, rfl⟩ | ⟨-, -, -, -, -, rfl⟩
    · unfold hunt0
      split
      · exact ⟨[], .silent, by simp⟩
      · exact ⟨_, .search 1 hm (by simp [hph]) (.inl rfl), rfl⟩
    · unfold hunt1
      split
      · exact ⟨[], .silent, by simp⟩
      · split
        · exact ⟨_, .search 1 hm (by simp [hph]) (.inl rfl), rfl⟩
        · exact ⟨_, .search 2 hm (by simp [hph]) (.inr rfl), rfl⟩
    · exact ⟨[], .silent, by simp [refByteLow]⟩
    · exact ⟨_, .reference hm hph hp, rfl⟩
    · exact ⟨[], .silent, by simp⟩

/-- Bytes only add events, at the end of the stream. -/
theorem feed_events {bs : List Byte} {s t : State} (h : feed Config.rpd bs s = .next t) : s.events <+: t.events :=
  feed_relation (R := fun s t => s.events <+: t.events) (fun _ => List.prefix_rfl)
    (fun _ _ _ _ hr hb => by
      obtain ⟨es, -, he⟩ := rxByte_events hb
      exact hr.trans ⟨es, he.symm⟩) bs s t h

/-! ## Open sessions -/

/-- A longer stream goes on from where the shorter one ended. -/
theorem sessionOpen_append (es more : List Event) :
    sessionOpen (es ++ more) = more.foldl openAfter (sessionOpen es) := by
  simp [sessionOpen]

/-- The consumer's `active` follows the events as an open session does (45_scan_aggregator.md R230). -/
theorem foldl_onEvent_active (c : Config) (es : List Event) (k : Consumer) :
    (es.foldl (onEvent c) k).active = es.foldl openAfter k.active := by
  induction es generalizing k with
  | nil => rfl
  | cons e es ih => simp only [List.foldl_cons, ih]; congr 1; cases e <;> rfl

/-! ## The consumer -/

/-- Every event counts as read. -/
@[simp] theorem onEvent_eventsRead (c : Config) (k : Consumer) (e : Event) :
    (onEvent c k e).eventsRead = k.eventsRead + 1 := by cases e <;> rfl

/-- Reading a list of events counts each of them. -/
theorem foldl_onEvent_eventsRead (c : Config) (es : List Event) (k : Consumer) :
    (es.foldl (onEvent c) k).eventsRead = k.eventsRead + es.length := by
  induction es generalizing k with
  | nil => rfl
  | cons e es ih => simp [ih]; omega

/-- What the consumer has read once it has caught up. -/
theorem catchUp_eventsRead (c : Config) (es : List Event) (k : Consumer) (h : k.eventsRead ≤ es.length) :
    (catchUp c es k).eventsRead = es.length := by
  simp [catchUp, foldl_onEvent_eventsRead]; omega

/-- Catching up in two pieces is catching up at once. -/
theorem catchUp_append (c : Config) (es more : List Event) (k : Consumer) (h : k.eventsRead ≤ es.length) :
    catchUp c (es ++ more) (catchUp c es k) = catchUp c (es ++ more) k := by
  have hr := catchUp_eventsRead c es k h
  simp only [catchUp] at hr ⊢
  rw [hr, List.drop_left, List.drop_append_of_le_length h, List.foldl_append]

/-- One event leaves the delivered scans or adds one at their end (45_scan_aggregator.md R236). -/
theorem onEvent_delivered (c : Config) (k : Consumer) (e : Event) : k.delivered <+: (onEvent c k e).delivered := by
  cases e <;> first | exact List.prefix_rfl | exact List.prefix_append _ _

end Sys2Proof.Machine
end

