-- ==== Sys2Proof/Laws/PerInstr.lean ====
section
/-! SUPPORT. Facts about every instruction as syntax, one lemma per constructor. The family `EncodedLength`: the encoder
writes as many bytes as spec/opcode_table.json and 30_encoding.md R70 give the instruction's row. -/

namespace Sys2Proof.Laws.EncodedLength

/-- The bytes an item at the port brings, a host word's payload list beside its two bytes. -/
def byteCount : Transaction → Nat
  | .hostOp _ payload => 2 + payload.length
  | .command frame => frame.length
  | .feed _ bytes => bytes.length

/-- The bytes of an instruction's row (R70, R71, R73 to R77). -/
def tableBytes : Instr → Nat
  | .getInfo => 3
  | .getHealth => 3
  | .getSampleRate => 3
  | .scan => 3
  | .expressScan => 8
  | .stopScan => 3
  | .resetDev => 3
  | .setMotorPwm _ => 5
  | .encodeAny _ p => p.length + 3
  | .reset => 2
  | .start _ => 2
  | .stop => 2
  | .rx _ => 2
  | .encode _ p => 2 + p.length
  | .xfail => 2
  | .hostOpReserved _ p => 2 + p.length
  | .respDesc _ _ _ => 7
  | .stdUnit _ => 5
  | .expPacket _ => 84
  | .expCabin _ => 5

/-- The encoder writes the row's length. -/
def Statement (i : Instr) : Prop := byteCount (encode Config.rpd i) = tableBytes i

theorem getInfo : Statement .getInfo := rfl
theorem getHealth : Statement .getHealth := rfl
theorem getSampleRate : Statement .getSampleRate := rfl
theorem scan : Statement .scan := rfl
theorem expressScan : Statement .expressScan := rfl
theorem stopScan : Statement .stopScan := rfl
theorem resetDev : Statement .resetDev := rfl
theorem setMotorPwm (v : BitVec 16) : Statement (.setMotorPwm v) := rfl
theorem encodeAny (op : Byte) (p : List Byte) : Statement (.encodeAny op p) := by
  simp [Statement, byteCount, tableBytes, encode, commandFrame]
theorem reset : Statement .reset := rfl
theorem start (e : Expect) : Statement (.start e) := rfl
theorem stop : Statement .stop := rfl
theorem rx (b : Byte) : Statement (.rx b) := rfl
theorem encode (op : Byte) (p : List Byte) : Statement (.encode op p) := rfl
theorem xfail : Statement .xfail := rfl
theorem hostOpReserved (w : HostWord) (p : List Byte) : Statement (.hostOpReserved w p) := rfl
theorem respDesc (len : BitVec 30) (mode : BitVec 2) (dtype : Byte) : Statement (.respDesc len mode dtype) := rfl
theorem stdUnit (u : StdUnit) : Statement (.stdUnit u) := rfl

/-- The bytes of a list of cabins, five each. -/
theorem length_cabins (cabs : List Cabin) : (cabs.flatMap encodeCabin).length = 5 * cabs.length := by
  induction cabs with
  | nil => rfl
  | cons cab cabs ih => simp [ih, encodeCabin]; omega

theorem expPacket (p : ExpPacket) : Statement (.expPacket p) := by
  simp only [Statement, byteCount, tableBytes, Sys2Proof.encode, encodeExpPacket, encodePacketHead,
    List.length_append, length_cabins, Vector.length_toList]
  rfl
theorem expCabin (cab : Cabin) : Statement (.expCabin cab) := rfl

end Sys2Proof.Laws.EncodedLength
end

