-- ==== Sys2Proof/Tests/Slice0.lean ====
section
/-! SUPPORT. The model's own tests: ill-formed terms the checks refuse, words written out from 30_encoding.md that decode
to their instructions, one step at a time from the vectors of 95_test_vectors.md (each names its vector), and for every
statement with hypotheses a concrete witness that meets them. -/

namespace Sys2Proof.Tests

open Sys2Proof.Machine

/-! ## Helpers -/

/-- A hardware build with a bound on payloads and on its event FIFO. -/
def boundedBuild : Config := { maxPayload := some 1, evqDepth := some 33, now := fun k => (k : Rat) }

/-- A build for a device with other marker nibbles, another sync byte and a search limit of 2 (R7). -/
def otherBuild : Config :=
  { cmdSync := 0xA6, syncNib1 := 0xB, syncNib2 := 0x6, losLimit := 2, now := fun k => (k : Rat) }

/-- A consumer whose `toRad` rounds: 355 / 113 for π. -/
noncomputable def roundingBuild : Config :=
  { toRadFn := some fun deg => ((deg * 355 / (113 * 180) : Rat) : ℝ), now := fun k => (k : Rat) }

/-- What `f` sees of a next state. -/
def seen {α : Type} (r : Result) (f : State → α) : Option α :=
  match r with
  | .next t => some (f t)
  | .fault _ => none
  | .refused _ => none

/-- A session that expects `e` and has collected `n` of the bytes in `buf`. -/
def inHeader (e : Expect) (n : BitVec 3) (buf : Vector Byte 7) : State :=
  { State.reset with mode := .hdr, expect := e, hp := { cnt := n, buf := buf } }

/-- The first six bytes of a descriptor, collected. -/
def sixBytes (e : Expect) (b0 b1 b2 b3 b4 b5 : Byte) : State := inHeader e 6 #v[b0, b1, b2, b3, b4, b5, 0]

/-- A single response of `len` bytes with `idx` of them forwarded. -/
def inPayload (len idx : BitVec 30) : State :=
  { State.reset with mode := .payload, hp := { HeaderRegs.zero with cnt := 7 }, pl := { len := len, idx := idx } }

/-- A standard stream at offset `pos`. -/
def inStd (pos : BitVec 3) : State :=
  { State.reset with mode := .std, expect := .std, hp := { HeaderRegs.zero with cnt := 7 }
                     sd := { StdRegs.zero with pos := pos } }

/-- An express stream with registers `x`. -/
def inExp (x : ExpRegs) : State :=
  { State.reset with mode := .exp, expect := .exp, hp := { HeaderRegs.zero with cnt := 7 }, xd := x }

/-- The express registers inside a packet at offset `pos`. -/
def atOffset (pos : BitVec 7) : ExpRegs := { ExpRegs.zero with ph := .body, pos := pos }

/-- A packet whose cabins are all `cab`. -/
def packetOf (ref : BitVec 15) (cab : Cabin) : ExpPacket :=
  { low0 := 0, low1 := 0, flag := false, ref := ref, cabins := Vector.replicate 16 cab }

/-- The cabin of L2-CB1, `A1 0F 00 00 23`. -/
def cabinCB1 : Cabin :=
  { s1 := { dist := 1000, sgn := false, mag := 19 }, s2 := { dist := 0, sgn := false, mag := 2 } }

/-- The cabin of L2-CB4, `A1 0F A2 0F 8F`. -/
def cabinCB4 : Cabin :=
  { s1 := { dist := 1000, sgn := false, mag := 31 }, s2 := { dist := 1000, sgn := true, mag := 8 } }

/-- A standard unit with everything zero but what a test names. -/
def unitZero : StdUnit := { quality := 0, sbar := false, s := false, angle := 0, chk := false, dist := 0 }

/-! ## WellFormed refuses -/

theorem test_wf_named_command_is_not_encodeAny : (Instr.encodeAny 0x50 []).wf Config.rpd = false := by decide
theorem test_wf_pwm_frame_is_not_encodeAny : (Instr.encodeAny 0xF0 [0x94, 0x02]).wf Config.rpd = false := by decide
theorem test_wf_unlisted_is_encodeAny : (Instr.encodeAny 0x20 [0x00]).wf Config.rpd = true := by decide
theorem test_wf_start_is_not_reserved : (Instr.hostOpReserved 0x1200 []).wf Config.rpd = false := by decide
theorem test_wf_encode_word_is_not_reserved : (Instr.hostOpReserved 0x40FF []).wf Config.rpd = false := by decide
theorem test_wf_payload_bound_encode : (Instr.encode 0x21 [0x01, 0x02]).wf boundedBuild = false := by decide
theorem test_wf_payload_bound_encodeAny : (Instr.encodeAny 0x21 [0x01, 0x02]).wf boundedBuild = false := by decide
theorem test_wf_payload_bound_expressScan : Instr.expressScan.wf boundedBuild = false := by decide
theorem test_wf_payload_bound_pwm : (Instr.setMotorPwm 0).wf boundedBuild = false := by decide

/-! ## Decoding: words written out from 30_encoding.md -/

theorem test_decode_getInfo : decodeTableWord 24 0xA550F5 = some .getInfo := by decide
theorem test_decode_getHealth : decodeTableWord 24 0xA552F7 = some .getHealth := by decide
theorem test_decode_getSampleRate : decodeTableWord 24 0xA559FC = some .getSampleRate := by decide
theorem test_decode_scan : decodeTableWord 24 0xA52085 = some .scan := by decide
theorem test_decode_expressScan : decodeTableWord 64 0xA582000000000027 = some .expressScan := by decide
theorem test_decode_stopScan : decodeTableWord 24 0xA52580 = some .stopScan := by decide
theorem test_decode_resetDev : decodeTableWord 24 0xA540E5 = some .resetDev := by decide
/-- R138's example: v = 660 = 0x0294, low byte first. -/
theorem test_decode_setMotorPwm : decodeTableWord 40 0xA5F09402C3 = some (.setMotorPwm 0x0294) := by decide
/-- R141's example. -/
theorem test_decode_encodeAny : decodeTableWord 32 0xA5210185 = some (.encodeAny 0x21 [0x01]) := by decide
theorem test_decode_reset : decodeTableWord 16 0x0000 = some .reset := by decide
theorem test_decode_start : decodeTableWord 16 0x1200 = some (.start .exp) := by decide
theorem test_decode_stop : decodeTableWord 16 0x2000 = some .stop := by decide
theorem test_decode_rx : decodeTableWord 16 0x30A5 = some (.rx 0xA5) := by decide
theorem test_decode_encode : decode Config.rpd (.hostOp 0x40F0 [0x94, 0x02]) = .ok (.encode 0xF0 [0x94, 0x02]) := by
  decide
theorem test_decode_xfail : decodeTableWord 16 0x5000 = some .xfail := by decide
theorem test_decode_hostOpReserved : decodeTableWord 16 0x0400 = some (.hostOpReserved 0x0400 []) := by decide
/-- L2-PH6: length 0x3FFFFFFF, mode 3. -/
theorem test_decode_respDesc : decodeTableWord 56 0xA55AFFFFFFFF00 = some (.respDesc 0x3FFFFFFF 3 0x00) := by decide
/-- L2-S10's unit `02 81 2D A0 0F`: angle 5824, check bit set. -/
theorem test_decode_stdUnit : decodeTableWord 40 0x02812DA00F
    = some (.stdUnit { quality := 0, sbar := true, s := false, angle := 5824, chk := true, dist := 4000 }) := by decide
/-- L2-CB4: `A1 0F A2 0F 8F`. -/
theorem test_decode_expCabin : decode Config.rpd (.feed .expCabin [0xA1, 0x0F, 0xA2, 0x0F, 0x8F])
    = .ok (.expCabin cabinCB4) := by decide
/-- L3-P3's Q2 with L2-X12's ignored bits set: `AF 5C 40 81 | (A1 0F 00 00 23) × 16`, reference angle 320. -/
theorem test_decode_expPacket : decode Config.rpd (.feed .expPacket
      ([0xAF, 0x5C, 0x40, 0x81] ++ (List.replicate 16 [0xA1, 0x0F, 0x00, 0x00, 0x23]).flatten))
    = .ok (.expPacket { packetOf 320 cabinCB1 with low0 := 0xF, low1 := 0xC, flag := true }) := by decide

theorem test_decode_rejects_bad_checksum :
    decode Config.rpd (.command [0xA5, 0x50, 0xF4]) = .error .frameBadChecksum := by decide
theorem test_decode_rejects_bad_sync : decode Config.rpd (.command [0xA6, 0x50, 0xF6]) = .error .frameBadSync := by decide
theorem test_decode_rejects_short_frame : decode Config.rpd (.command [0xA5, 0xA5]) = .error .frameTooShort := by decide
theorem test_decode_rejects_bad_marker : decode Config.rpd (.feed .expPacket (0x0A :: List.replicate 83 0x50))
    = .error .packetBadMarker := by decide
theorem test_decode_rejects_length : decode Config.rpd (.feed .stdUnit [0, 0, 0, 0]) = .error .unitWrongLength := by decide
/-- L2-PH4's sync pair. -/
theorem test_decode_rejects_descriptor : decode Config.rpd (.feed .respDesc [0xA5, 0x5B, 0x05, 0, 0, 0x40, 0x81])
    = .error .descriptorBadSync := by decide
theorem test_decode_rejects_payload_beside_stop :
    decode Config.rpd (.hostOp 0x2000 [0x00]) = .error .payloadWithoutEncode := by decide

/-! ## One step, from the vectors of 95_test_vectors.md -/

/-- L2-H1. -/
theorem test_start : seen (exec (.start .std) .reset) (fun t => (t.mode, t.expect, t.events))
    = some (.hdr, .std, [.sessionStart .std]) := by decide
/-- L2-H7. -/
theorem test_restart : seen (exec (.start .exp) (inHeader .std 4 #v[0xA5, 0x5A, 5, 0, 0, 0, 0]))
      (fun t => (t.mode, t.expect, t.hp, t.events))
    = some (.hdr, .exp, .zero, [.truncated .hdr 4, .sessionEnd .restart, .sessionStart .exp]) := by decide
/-- L2-H4. -/
theorem test_stop_idle : seen (exec .stop .reset) (fun t => (t.mode, t.events)) = some (.idle, []) := by decide
/-- L3-P2, step 23: the partial unit goes silently. -/
theorem test_stop_mid_unit : seen (exec .stop (inStd 3)) (fun t => (t.mode, t.sd.pos, t.events))
    = some (.idle, 3, [.sessionEnd .stop]) := by decide
/-- L2-H10. -/
theorem test_reset_exp : seen (exec .reset (inExp (atOffset 40))) (fun t => (t.mode, t.expect, t.hp, t.xd, t.events))
    = some (.idle, .single, .zero, .zero, [.sessionEnd .reset]) := by decide
/-- L2-H5. -/
theorem test_xfail_idle : seen (exec .xfail .reset) (fun t => (t.mode, t.events)) = some (.idle, [.transportFailure]) := by
  decide
/-- L2-H6. -/
theorem test_xfail_header : seen (exec .xfail (inHeader .std 4 #v[0xA5, 0x5A, 5, 0, 0, 0, 0]))
      (fun t => (t.mode, t.events))
    = some (.idle, [.transportFailure, .truncated .hdr 4, .sessionEnd .xfail]) := by decide
/-- L2-HB5's last byte. -/
theorem test_rx_unexpected : seen (exec (.rx 0x81) (sixBytes .std 0xA5 0x5A 0x54 0x00 0x00 0x40))
      (fun t => (t.mode, t.events))
    = some (.idle, [.descriptor 84 1 0x81, .unexpectedResponse 84 0x81 .std, .sessionEnd .fatal]) := by decide
/-- L2-X8's 85th byte: the count goes past `LOS_LIMIT`. -/
theorem test_rx_loss_of_sync :
    seen (exec (.rx 0x00) (inExp { ExpRegs.zero with disc := 84, epi := true }))
      (fun t => (t.xd.disc, t.xd.los, t.events))
    = some (85, true, [.lossOfSync 85]) := by decide
/-- L2-H9. -/
theorem test_encode_mid_stream : seen (exec (.encode 0x25 []) (inStd 3)) (fun t => (t.mode, t.sd.pos, t.events))
    = some (.std, 3, [.txFrame [0xA5, 0x25, 0x80]]) := by decide
/-- L2-E6: an opcode equal to the sync byte. -/
theorem test_encode_sync_opcode : seen (exec (.encode 0xA5 []) .reset) (fun t => t.events)
    = some [.txFrame [0xA5, 0xA5, 0x00]] := by decide
/-- L2-E3. -/
theorem test_encodeAny_unlisted : seen (exec (.encodeAny 0x21 [0x01]) .reset) (fun t => t.events)
    = some [.txFrame [0xA5, 0x21, 0x01, 0x85]] := by decide
/-- L2-E7. -/
theorem test_encodeAny_extra_payload : seen (exec (.encodeAny 0x20 [0x00]) .reset) (fun t => t.events)
    = some [.txFrame [0xA5, 0x20, 0x00, 0x85]] := by decide
/-- L1-1, one row each. -/
theorem test_getInfo : seen (exec .getInfo .reset) (fun t => t.events) = some [.txFrame [0xA5, 0x50, 0xF5]] := by decide
theorem test_getHealth : seen (exec .getHealth .reset) (fun t => t.events)
    = some [.txFrame [0xA5, 0x52, 0xF7]] := by decide
theorem test_getSampleRate : seen (exec .getSampleRate .reset) (fun t => t.events)
    = some [.txFrame [0xA5, 0x59, 0xFC]] := by decide
theorem test_scan : seen (exec .scan .reset) (fun t => t.events) = some [.txFrame [0xA5, 0x20, 0x85]] := by decide
theorem test_expressScan : seen (exec .expressScan .reset) (fun t => t.events)
    = some [.txFrame [0xA5, 0x82, 0, 0, 0, 0, 0, 0x27]] := by decide
theorem test_stopScan : seen (exec .stopScan .reset) (fun t => t.events) = some [.txFrame [0xA5, 0x25, 0x80]] := by decide
theorem test_resetDev : seen (exec .resetDev .reset) (fun t => t.events) = some [.txFrame [0xA5, 0x40, 0xE5]] := by decide
theorem test_setMotorPwm : seen (exec (.setMotorPwm 660) .reset) (fun t => t.events)
    = some [.txFrame [0xA5, 0xF0, 0x94, 0x02, 0xC3]] := by decide
/-- L2-E2. -/
theorem test_setMotorPwm_all_ones : seen (exec (.setMotorPwm 0xFFFF) .reset) (fun t => t.events)
    = some [.txFrame [0xA5, 0xF0, 0xFF, 0xFF, 0x55]] := by decide
/-- L2-H8. -/
theorem test_reserved_tag : execHostOpReserved 0x6000 .reset = .refused (.hostOp .reservedTag) := by rfl
theorem test_reserved_data : execHostOpReserved 0x2001 .reset = .refused (.hostOp .dataNotZero) := by rfl
/-- L2-HB7: a length sent high byte first does not match. -/
theorem test_respDesc_wrong_order : seen (exec (.respDesc 83886080 1 0x81) (inHeader .std 0 (Vector.replicate 7 0)))
      (fun t => (t.mode, t.events))
    = some (.idle, [.descriptor 83886080 1 0x81, .unexpectedResponse 83886080 0x81 .std, .sessionEnd .fatal]) := by
  decide
/-- L2-HB10: an empty single response. -/
theorem test_respDesc_empty : seen (exec (.respDesc 0 0 0x06) (inHeader .single 0 (Vector.replicate 7 0)))
      (fun t => (t.mode, t.events))
    = some (.idle, [.descriptor 0 0 0x06, .payloadEnd 0, .sessionEnd .complete]) := by decide
/-- L1-2, the source's fixture. -/
theorem test_stdUnit_fixture : seen (exec (.stdUnit { unitZero with s := true, dist := 4000 }) (inStd 0))
      (fun t => (t.sd.pos, t.events))
    = some (0, [.boundary .std, .stdSample 0 4000 0]) := by decide
/-- L2-S13's bytes 1 to 5, one byte out of place: the unit `01 00 00 A0 0F` arrives at offset 1. -/
theorem test_stdUnit_misaligned :
    seen (exec (.stdUnit { unitZero with s := true, dist := 4000 })
      { inStd 1 with sd := { StdRegs.zero with pos := 1, q := 21 } }) (fun t => (t.sd.pos, t.events))
    = some (1, [.stdSample 0 40960 21, .stdCheckFail 0x0F]) := by decide
/-- L2-CB4 at cabin 0. -/
theorem test_expCabin : seen (exec (.expCabin cabinCB4) (inExp (atOffset 4)))
      (fun t => (t.xd.pos, t.xd.cur[0], t.xd.cur[1], t.events))
    = some (9, { dist := 1000, sgn := false, mag := 31 }, { dist := 1000, sgn := true, mag := 8 }, []) := by decide
/-- L3-P3, step 97: Q1 is emitted while Q2 arrives, the boundary first, and the third sample has wrapped. -/
theorem test_expPacket_wrap :
    seen (exec (.expPacket (packetOf 320 cabinCB1))
      (inExp { ExpRegs.zero with
        prev := 23000, pvalid := true
        pend := Vector.ofFn fun i =>
          { dist := if i.val % 2 = 0 then BitVec.ofNat 14 (50 * (i.val + 2)) else 0, sgn := false, mag := 0 } }))
      (fun t => (t.events.take 6, t.events.length, t.xd.prev, t.xd.pend[30], t.xd.pend[31]))
    = some ([.boundary .exp, .expSample 736000 100, .zeroReturn .exp, .expSample 736720 200, .zeroReturn .exp,
        .expSample 160 300], 33, 320, cabinCB1.s1, cabinCB1.s2) := by decide
/-- L2-IP3: a negative angle wraps. -/
theorem test_expPacket_negative_angle :
    seen (exec (.expPacket (packetOf 640 cabinCB1))
      (inExp { ExpRegs.zero with
        pvalid := true, pend := Vector.ofFn fun i => if i.val % 2 = 0 then cabinCB4.s1 else cabinCB4.s2 }))
      (fun t => t.events.take 4)
    = some [.expSample 729344 1000, .expSample 2688 1000, .expSample 730624 1000, .expSample 3968 1000] := by decide
/-- L2-IP5: the largest angle before reduction. -/
theorem test_largest_angle :
    pendingEvent Config.rpd 32767 32766 31 { dist := 16383, sgn := true, mag := 31 } = .expSample 296129 16383 := by
  decide

/-- L2-PH2, L2-PH3: too short comes before bad sync. -/
theorem test_parse_short : parseHeader Config.rpd [0xA5] = .truncated
    ∧ parseHeader Config.rpd [0, 0, 0, 0, 0, 0] = .truncated := by decide
/-- L2-PH5: the eighth byte is not read. -/
theorem test_parse_long : parseHeader Config.rpd [0xA5, 0x5A, 0x05, 0, 0, 0x40, 0x81, 0xEE]
    = .descriptor { len := 5, mode := 1, dtype := 0x81 } := by decide

/-- L3-P5 and L3-P1: the consumer-side views. -/
theorem test_views : (deviceInfo [0x18, 0x1D, 0x01, 0x07, 0xAA]).serial = [0xAA]
    ∧ (deviceInfo [0x18, 0x1D]).firmwareMajor = none
    ∧ healthErrorCode [0x00, 0x00, 0x00] = some 0x0000 ∧ healthErrorCode [0x00, 0x12] = none := by decide

/-- R80: a payload list and a word in the textual syntax. -/
theorem test_text : instrText Config.rpd (.encode 0xF0 [0x94, 0x02]) = some "ENCODE 0xF0 [0x94, 0x02]"
    ∧ instrText Config.rpd (.start .exp) = some "START EXP" := by decide

/-- R113: the duties hold of a query and fail of a START for a command without a response. -/
theorem test_duties : startsAfterCommands none [.getInfo, .start .single, .setMotorPwm 660, .scan, .start .std] = true
    ∧ startsAfterCommands none [.setMotorPwm 660, .start .single] = false
    ∧ startsAfterCommands none [.scan, .start .exp] = false := by decide

/-- A clock for the consumer's vectors: 5 at the first read, 26/5 at the second. -/
def vectorClock : Config := { now := fun k => if k = 0 then 5 else 26 / 5 }

/-- L2-A1: the angle is reduced, and the rate is 5 Hz. -/
theorem test_consumer_scan :
    ([.sessionStart .std, .stdSample 23040 4000 7, .boundary .std].foldl (onEvent vectorClock) Consumer.initial).delivered
    = [{ index := 0, samples := [{ angle := ⟨0⟩, distance := 1, quality := some 7 }], completed := 1
         zeroReturns := 0, rateHz := some 5 }] := by
  simp [onEvent, onSessionStart, onSample, onBoundary, viewStd, scanRate, vectorClock, Consumer.initial]
  norm_num
/-- L2-A2: the angle is toRad(180°), which is π at the default. -/
theorem test_consumer_L2_A2 : (viewExp 368640 2500).angle.value Config.rpd = Real.pi
    ∧ (viewExp 368640 2500).distance = 5 / 2 := by
  have ha : (368640 : BitVec 20).toNat = 368640 := rfl
  have hd : (2500 : BitVec 14).toNat = 2500 := rfl
  constructor <;> norm_num [viewExp, ha, hd]

/-- R231: a `toRad` that rounds gives its own value, 355 / 113 for 180 degrees. -/
theorem test_rounding_toRad : (viewExp 368640 2500).angle.value roundingBuild = 355 / 113 := by
  have ha : (368640 : BitVec 20).toNat = 368640 := rfl
  norm_num [viewExp, roundingBuild, Config.toRad, ha]

/-- L2-A3: a scan cut short by STOP is not delivered. -/
theorem test_consumer_stop :
    ([.sessionStart .std, .stdSample 0 4000 0, .sessionEnd .stop].foldl (onEvent vectorClock) Consumer.initial).delivered
    = [] := by
  simp [onEvent, onSessionStart, onSample, onSessionEnd, Consumer.initial]

/-! ## Witnesses: a concrete state and operands for each statement's hypotheses -/

/-- A standard stream, opened by START and a descriptor, whose events the consumer has read; `port` waits. -/
def streaming (port : List Transaction) : State :=
  { inStd 4 with
    port := port
    events := [.sessionStart .std, .descriptor 5 1 0x81]
    consumer := { Consumer.initial with active := true, eventsRead := 2, clockReads := 1 } }

/-- An express stream in the middle of a search: 84 bytes discarded, one packet pending. -/
def searching : ExpRegs := { ExpRegs.zero with disc := 84, epi := true, prev := 640, pvalid := true }

theorem zero_ok : ExpRegs.zero.Ok := by unfold ExpRegs.Ok; decide

theorem streaming_regsInv (port : List Transaction) : (streaming port).RegsInv :=
  ⟨⟨rfl, rfl, rfl, rfl⟩, Nat.le_refl 4, zero_ok⟩

theorem streaming_inv (port : List Transaction) : (streaming port).Inv :=
  ⟨streaming_regsInv port, rfl, rfl, rfl⟩

theorem searching_regsInv : (inExp searching).RegsInv :=
  ⟨⟨rfl, rfl, rfl, rfl⟩, by decide, by unfold ExpRegs.Ok; decide⟩

theorem lastByte_regsInv : (inExp (atOffset 83)).RegsInv :=
  ⟨⟨rfl, rfl, rfl, rfl⟩, by decide, by unfold ExpRegs.Ok; decide⟩

theorem header_regsInv : (sixBytes .exp 0xA5 0x5A 0x54 0x00 0x00 0x40).RegsInv :=
  ⟨⟨by decide, rfl, rfl, rfl⟩, by decide, by unfold ExpRegs.Ok; decide⟩

theorem payload_regsInv : (inPayload 2 1).RegsInv :=
  ⟨⟨rfl, rfl, by decide, rfl, rfl⟩, by decide, by unfold ExpRegs.Ok; decide⟩

theorem witness_DecodeOfEncodeIsIdentity :
    (Instr.expPacket (packetOf 0x7FFF cabinCB4)).wf Config.rpd = true
      ∧ (Instr.encodeAny 0x82 [0, 0, 0, 0]).wf Config.rpd = true
      ∧ (Instr.hostOpReserved 0x5001 [0x01]).wf Config.rpd = true := by decide

theorem witness_EncodeOfDecodeIsIdentity :
    decode Config.rpd (.feed .stdUnit [0xFF, 0xFF, 0xFF, 0xFF, 0xFF])
        = .ok (.stdUnit { quality := 63, sbar := true, s := true, angle := 32767, chk := true, dist := 65535 })
      ∧ decode Config.rpd (.hostOp 0x4020 [0x01]) = .ok (.encode 0x20 [0x01])
      ∧ decode Config.rpd (.command [0xA5, 0xF0, 0x01, 0x54]) = .ok (.encodeAny 0xF0 [0x01]) := by decide

/-- Each case of R102 at its boundary, and a payload one byte too long. -/
theorem witness_RefusedHostOperationsStop :
    6 ≤ (hostTag 0x6000).toNat ∧ hostZero 0x0400 ≠ 0 ∧ (hostTag 0x3100 ≠ 1 ∧ hostArg 0x3100 ≠ 0)
      ∧ (hostTag 0x1300 = 1 ∧ hostArg 0x1300 = 3) ∧ (hostTag 0x2001 ≠ 3 ∧ hostTag 0x2001 ≠ 4 ∧ hostData 0x2001 ≠ 0)
      ∧ { State.reset with port := [.hostOp 0x6000 []] }.port = .hostOp 0x6000 [] :: []
      ∧ boundedBuild.maxPayload = some 1 ∧ 1 < [(0x01 : Byte), 0x02].length := by decide

theorem witness_HostOpReservedIsRefused :
    (Instr.hostOpReserved 0x6000 []).wf Config.rpd = true ∧ (Instr.hostOpReserved 0x1300 []).wf Config.rpd = true
      ∧ (Instr.hostOpReserved 0x3100 []).wf Config.rpd = true ∧ (Instr.hostOpReserved 0x2001 []).wf Config.rpd = true := by
  decide

theorem witness_StepRunsTheDecodedInstruction :
    (streaming [.hostOp 0x30FF []]).port = .hostOp 0x30FF [] :: []
      ∧ decode Config.rpd (.hostOp 0x30FF []) = .ok (.rx 0xFF) := by decide

theorem witness_StepWaitsAndRejectsByName :
    (streaming []).port = [] ∧ (streaming [.command []]).port = .command [] :: []
      ∧ decode Config.rpd (.command []) = .error .frameTooShort := by decide

/-- One state for each clause, the count at 0, 6 and 7. -/
theorem witness_AbortSessionByMode :
    State.reset.mode = .idle
      ∧ (inHeader .single 0 (Vector.replicate 7 0)).mode = .hdr
      ∧ (inHeader .single 0 (Vector.replicate 7 0)).hp.cnt.toNat < 7
      ∧ (sixBytes .std 0xA5 0x5A 5 0 0 0).hp.cnt.toNat < 7
      ∧ (inHeader .std 7 (Vector.replicate 7 0)).mode = .hdr
      ∧ (inHeader .std 7 (Vector.replicate 7 0)).hp.cnt.toNat = 7
      ∧ (inPayload 2 1).mode = .payload ∧ EndReason.stop ≠ .complete ∧ EndReason.complete = .complete
      ∧ (inStd 0).mode = .std ∧ (inExp .zero).mode = .exp := by decide

theorem witness_idle : State.reset.mode = .idle := rfl

theorem witness_EndingASessionFlushesNothing :
    (∃ t, exec .stop (inExp searching) = .next t) ∧ (∃ t, exec .reset (inStd 3) = .next t)
      ∧ (∃ t, exec .xfail (inPayload 2 1) = .next t) ∧ ∃ t, exec (.start .std) (inExp searching) = .next t :=
  ⟨⟨_, rfl⟩, ⟨_, rfl⟩, ⟨_, rfl⟩, _, rfl⟩

theorem witness_ParseHeaderFields :
    [(0xA5 : Byte), 0x5A, 0, 0, 0, 0].length < 7 ∧ ((0xA4 : Byte) ≠ 0xA5 ∨ (0x5A : Byte) ≠ 0x5A)
      ∧ ((0xA5 : Byte) ≠ 0xA5 ∨ (0x5B : Byte) ≠ 0x5A) ∧ ((0xA5 : Byte) = 0xA5 ∧ (0x5A : Byte) = 0x5A) := by decide

/-- The count at 0, 5 and 6. -/
theorem witness_HeaderByteIsCollected :
    (inHeader .single 0 (Vector.replicate 7 0)).mode = .hdr
      ∧ (inHeader .single 0 (Vector.replicate 7 0)).hp.cnt.toNat < 6
      ∧ (inHeader .single 5 (Vector.replicate 7 0)).hp.cnt.toNat < 6
      ∧ (sixBytes .std 0xA5 0x5A 5 0 0 0).hp.cnt = 6 := by decide

/-- One header for each outcome of the seventh byte. -/
theorem witness_HeaderCompletesAtTheSeventhByte :
    (sixBytes .std 0xA5 0x5B 5 0 0 0x40).mode = .hdr ∧ (sixBytes .std 0xA5 0x5B 5 0 0 0x40).hp.cnt = 6
      ∧ parseHeader Config.rpd ((sixBytes .std 0xA5 0x5B 5 0 0 0x40).hp.buf.set 6 0x81).toList = .invalidSync
      ∧ parseHeader Config.rpd ((sixBytes .std 0xA5 0x5A 6 0 0 0x40).hp.buf.set 6 0x81).toList
          = .descriptor { len := 6, mode := 1, dtype := 0x81 }
      ∧ checkExpected Config.rpd .std { len := 6, mode := 1, dtype := 0x81 } = false
      ∧ checkExpected Config.rpd .exp { len := 84, mode := 1, dtype := 0x81 } = false
      ∧ parseHeader Config.rpd ((sixBytes .std 0xA5 0x5A 5 0 0 0x40).hp.buf.set 6 0x81).toList
          = .descriptor { len := 5, mode := 1, dtype := 0x81 }
      ∧ checkExpected Config.rpd .std { len := 5, mode := 1, dtype := 0x81 } = true
      ∧ checkExpected Config.rpd .exp { len := 84, mode := 1, dtype := 0x82 } = true
      ∧ parseHeader Config.rpd ((sixBytes .single 0xA5 0x5A 0xFF 0xFF 0xFF 0xFF).hp.buf.set 6 0x00).toList
          = .descriptor { len := 0x3FFFFFFF, mode := 3, dtype := 0x00 }
      ∧ (0x3FFFFFFF : BitVec 30) ≠ 0
      ∧ parseHeader Config.rpd ((sixBytes .single 0xA5 0x5A 0 0 0 0).hp.buf.set 6 0x06).toList
          = .descriptor { len := 0, mode := 0, dtype := 0x06 } := by decide

theorem witness_RespDescOpensTheResponse :
    (inHeader .std 0 (Vector.replicate 7 0)).mode = .hdr ∧ (inHeader .std 0 (Vector.replicate 7 0)).hp.cnt = 0
      ∧ (inHeader .std 0 (Vector.replicate 7 0)).expect = .std ∧ (inHeader .exp 0 (Vector.replicate 7 0)).expect = .exp
      ∧ (inHeader .single 0 (Vector.replicate 7 0)).expect = .single ∧ (1 : BitVec 30) ≠ 0
      ∧ ¬((5 : BitVec 30) = 5 ∧ (0x82 : Byte) = 0x81) ∧ ¬((83 : BitVec 30) = 84 ∧ (0x82 : Byte) = 0x82) := by decide

/-- The last byte, one that is not the last, and the largest index that has a successor. -/
theorem witness_PayloadByteIsForwarded :
    (inPayload 2 1).mode = .payload ∧ (inPayload 2 1).pl.idx.toNat + 1 = (inPayload 2 1).pl.len.toNat
      ∧ (inPayload 2 0).pl.idx.toNat + 1 ≠ (inPayload 2 0).pl.len.toNat
      ∧ (inPayload 0x3FFFFFFF 0x3FFFFFFE).pl.idx.toNat + 1 < 2 ^ 30
      ∧ (inPayload 0x3FFFFFFF 0x3FFFFFFE).pl.idx.toNat + 1 = (inPayload 0x3FFFFFFF 0x3FFFFFFE).pl.len.toNat := by decide

theorem witness_ByteGoesWhereModeSays :
    State.reset.mode = .idle ∧ (inHeader .std 0 (Vector.replicate 7 0)).mode = .hdr ∧ (inPayload 1 0).mode = .payload
      ∧ (inStd 0).mode = .std ∧ (inExp .zero).mode = .exp := by decide

/-- Each register just outside its range. -/
theorem witness_OutOfRangeRegistersFault :
    (inHeader .std 7 (Vector.replicate 7 0)).hp.cnt = 7 ∧ (inPayload 5 (BitVec.allOnes 30)).pl.idx = BitVec.allOnes 30
      ∧ 5 ≤ (inStd 5).sd.pos.toNat ∧ (inExp (atOffset 1)).xd.pos.toNat < 2 ∧ 84 ≤ (inExp (atOffset 84)).xd.pos.toNat
      ∧ (inExp (atOffset 84)).xd.ph = .body := by decide

theorem witness_StdOffsetZeroLatchesQualityAndFlag :
    (inStd 0).mode = .std ∧ (inStd 0).sd.pos = 0 ∧ (0x03 : Byte).toNat % 2 = (0x03 : Byte).toNat / 2 % 2
      ∧ (0x00 : Byte).toNat % 2 = (0x00 : Byte).toNat / 2 % 2 ∧ (0xFD : Byte).toNat % 4 = 1
      ∧ (0x02 : Byte).toNat % 4 = 2 := by decide

theorem witness_StdOffsetsAssembleTheSample :
    (inStd 1).mode = .std ∧ (inStd 1).sd.pos = 1 ∧ (inStd 2).sd.pos = 2 ∧ (inStd 3).sd.pos = 3 ∧ (inStd 4).sd.pos = 4 := by
  decide

/-- For StdUnitIsDecoded, StdStreamIsDecoded and StdOffsetIgnoresTheBytes. -/
theorem witness_StdUnitIsDecoded : (inStd 0).mode = .std ∧ (inStd 0).sd.pos = 0 ∧ (inStd 4).sd.pos.toNat ≤ 4 := by decide

theorem witness_MarkerSearch :
    (inExp searching).mode = .exp ∧ (inExp searching).xd.ph = .hunt0 ∧ (0xA7 : Byte).toNat / 16 = 0xA
      ∧ (0x3C : Byte).toNat / 16 ≠ 0xA ∧ (inExp { searching with ph := .hunt1 }).xd.ph = .hunt1
      ∧ (0x5E : Byte).toNat / 16 = 0x5 ∧ (0x3C : Byte).toNat / 16 ≠ 0x5 := by decide

/-- L2-X7 and L2-X8: 84 and 85 bytes. -/
theorem witness_GarbageIsReportedOnce :
    (inExp .zero).mode = .exp ∧ (inExp .zero).xd.ph = .hunt0 ∧ (inExp .zero).xd.epi = false
      ∧ (inExp .zero).xd.disc = 0 ∧ (inExp .zero).xd.los = false
      ∧ (∀ b ∈ List.replicate 84 (0x00 : Byte), b.toNat / 16 ≠ 0xA)
      ∧ ∀ b ∈ List.replicate 85 (0x00 : Byte), b.toNat / 16 ≠ 0xA := by decide

/-- Both offsets, and both ends of the angle's range. -/
theorem witness_ReferenceAngleBytes :
    (inExp (atOffset 2)).mode = .exp ∧ (inExp (atOffset 2)).xd.ph = .body ∧ (inExp (atOffset 2)).xd.pos = 2
      ∧ (inExp (atOffset 3)).xd.pos = 3
      ∧ (0 : BitVec 15).toNat = (0x80 : Byte).toNat % 128 * 256 + (inExp (atOffset 3)).xd.refLo.toNat
      ∧ (0x7FFF : BitVec 15).toNat
          = (0x7F : Byte).toNat % 128 * 256 + (inExp { atOffset 3 with refLo := 0xFF }).xd.refLo.toNat := by decide

theorem witness_InterpolationLaw :
    31 < 32 ∧ (Vector.replicate 32 Pair.zero)[31].dist.toNat = 0
      ∧ 0 < (Vector.replicate 32 cabinCB1.s1)[0].dist.toNat := by decide

/-- The first byte, the fifth, and the last of a packet. -/
theorem witness_CabinBytes :
    (inExp (atOffset 4)).mode = .exp ∧ (inExp (atOffset 4)).xd.ph = .body
      ∧ (inExp (atOffset 4)).xd.pos.toNat = 4 + 5 * (0 : Fin 16).val + 0
      ∧ (inExp (atOffset 78)).xd.pos.toNat = 4 + 5 * (14 : Fin 16).val + 4
      ∧ (inExp (atOffset 82)).xd.pos.toNat = 4 + 5 * (15 : Fin 16).val + 3
      ∧ (inExp (atOffset 83)).xd.pos.toNat = 4 + 5 * (15 : Fin 16).val + 4 := by decide

theorem witness_ExpCabinFillsTwoEntries :
    (inExp (atOffset 4)).xd.pos.toNat = 4 + 5 * (0 : Fin 16).val
      ∧ (inExp (atOffset 74)).xd.pos.toNat = 4 + 5 * (14 : Fin 16).val
      ∧ (inExp (atOffset 79)).xd.pos.toNat = 4 + 5 * (15 : Fin 16).val ∧ (inExp (atOffset 79)).xd.ph = .body := by decide

/-- For ExpPacketIsDecoded and OneGarbageByteCostsNoPacket, with a packet pending. -/
theorem witness_ExpPacketIsDecoded :
    (inExp { ExpRegs.zero with prev := 640, pvalid := true }).mode = .exp
      ∧ (inExp { ExpRegs.zero with prev := 640, pvalid := true }).xd.ph = .hunt0
      ∧ (inExp { ExpRegs.zero with prev := 640, pvalid := true }).xd.epi = false
      ∧ (inExp { ExpRegs.zero with prev := 640, pvalid := true }).xd.disc = 0
      ∧ (inExp { ExpRegs.zero with prev := 640, pvalid := true }).xd.los = false := by decide

theorem witness_UnitStepIsItsRxSteps :
    (streaming [.feed .stdUnit [0x01, 0x00, 0x00, 0xA0, 0x0F]]).port = .feed .stdUnit [0x01, 0x00, 0x00, 0xA0, 0x0F] :: []
      ∧ decode Config.rpd (.feed .stdUnit [0x01, 0x00, 0x00, 0xA0, 0x0F])
          = .ok (.stdUnit { unitZero with s := true, dist := 4000 })
      ∧ (streaming []).consumer.eventsRead ≤ (streaming []).events.length := by decide

/-- For ExecKeepsTheRegisterInvariant and EveryOperationHasAResult: one step in each MODE, the last byte of a packet. -/
theorem witness_ExecKeepsTheRegisterInvariant :
    ((streaming []).RegsInv ∧ ∃ t, exec (.rx 0x0F) (streaming []) = .next t)
      ∧ ((inExp (atOffset 83)).RegsInv ∧ ∃ t, exec (.rx 0xFF) (inExp (atOffset 83)) = .next t)
      ∧ ((inPayload 2 1).RegsInv ∧ ∃ t, exec (.rx 0x00) (inPayload 2 1) = .next t)
      ∧ (sixBytes .exp 0xA5 0x5A 0x54 0x00 0x00 0x40).RegsInv
      ∧ ∃ t, exec (.rx 0x82) (sixBytes .exp 0xA5 0x5A 0x54 0x00 0x00 0x40) = .next t :=
  ⟨⟨streaming_regsInv _, _, rfl⟩, ⟨lastByte_regsInv, _, rfl⟩, ⟨payload_regsInv, _, rfl⟩, header_regsInv, _, rfl⟩

/-- For StepKeepsTheInvariant and StreamsOnlyGrow. -/
theorem witness_StepKeepsTheInvariant :
    (streaming [.hostOp 0x2000 []]).Inv ∧ ∃ t, step (streaming [.hostOp 0x2000 []]) = .next t :=
  ⟨streaming_inv _, _, rfl⟩

/-- One error event for each kind of operation that raises one. -/
theorem witness_ErrorsEachOperationRaises :
    seen (exec (.rx 0x00) (inStd 0)) (fun t => t.events) = some ([] ++ [.stdCheckFail 0x00])
      ∧ (Event.stdCheckFail 0x00).isError = true
      ∧ seen (exec (.rx 0x81) (sixBytes .std 0x5A 0xA5 5 0 0 0x40)) (fun t => t.events)
          = some ([] ++ [.invalidSync .hdr, .sessionEnd .fatal])
      ∧ (Event.invalidSync .hdr).isError = true
      ∧ seen (exec (.rx 0x00) (inExp .zero)) (fun t => t.events) = some ([] ++ [.invalidSync .exp])
      ∧ seen (exec .stop (inPayload 2 1)) (fun t => t.events) = some ([] ++ [.truncated .payload 1, .sessionEnd .stop])
      ∧ (Event.truncated .payload 1).isError = true ∧ Event.transportFailure.isError = true := by decide

/-- Fatal errors with a session open, in states in range. -/
theorem witness_AtMostOneFatalError :
    (sixBytes .exp 0xA5 0x5A 0x54 0x00 0x00 0x40).RegsInv
      ∧ seen (exec (.rx 0x81) (sixBytes .exp 0xA5 0x5A 0x54 0x00 0x00 0x40)) (fun t => t.events)
          = some ([] ++ [.descriptor 84 1 0x81, .unexpectedResponse 84 0x81 .exp, .sessionEnd .fatal])
      ∧ (inExp searching).RegsInv ∧ (inExp searching).mode ≠ .idle
      ∧ seen (exec .xfail (inExp searching)) (fun t => t.events) = some ([] ++ [.transportFailure, .sessionEnd .xfail]) :=
  ⟨header_regsInv, by decide, searching_regsInv, by decide, by decide⟩

/-- The 33 events of L2-IP2's step. -/
theorem witness_LargestStepIsThirtyThreeEvents :
    seen (exec (.rx 0x00) (inExp { atOffset 3 with prev := 22000, refLo := 100, pvalid := true }))
      (fun t => t.events.length) = some 33 := by decide

theorem witness_InboundBytesFrame :
    (∃ t, feed Config.rpd [0x01, 0x00] (inStd 4) = .next t) ∧ (∃ t, feed Config.rpd [0xA5, 0x5A] (inExp .zero) = .next t)
      ∧ (∃ t, feed Config.rpd [0xA5] .reset = .next t) ∧ ∃ t, feed Config.rpd [0xA5] (inPayload 2 1) = .next t :=
  ⟨⟨_, rfl⟩, ⟨_, rfl⟩, ⟨_, rfl⟩, _, rfl⟩

/-- The two kinds of byte that change MODE. -/
theorem witness_WritersOfMode :
    seen (exec (.rx 0x81) (sixBytes .std 0xA5 0x5A 5 0 0 0x40)) (fun t => t.mode) = some .std
      ∧ seen (exec (.rx 0x00) (inPayload 2 1)) (fun t => t.mode) = some .idle
      ∧ Instr.scan.commandParts ≠ none := by decide

theorem witness_EmittedSamplesAreInRange :
    seen (exec (.rx 0x00) (inExp { atOffset 3 with pvalid := true, pend := Vector.replicate 32 cabinCB4.s1 }))
      (fun t => t.events.head?) = some (some (.expSample 729344 1000))
      ∧ seen (exec (.rx 0x0F) (inStd 4)) (fun t => t.events) = some ([] ++ [.stdSample 0 3840 0]) := by decide

theorem witness_SampleView : (737279 : BitVec 20).toNat < 737280 ∧ roundingBuild.degQ6Full = 23040
    ∧ ∃ f, roundingBuild.toRadFn = some f := ⟨by decide, rfl, _, rfl⟩

theorem witness_ConsumerAggregates : (Event.lossOfSync 85).isError = true ∧ (Event.truncated .hdr 0).isError = true := by
  decide

theorem witness_ClockNeverDecreases : (0 : Nat) ≤ 3 := by decide

/-! ## The step of R12 under other configurations, by hand from R12, R102, R130, R191 and R192 -/

/-- R102: the bounded build refuses a payload of two bytes, and sends one of one byte (0xA5 ^ 0x20 ^ 0x01 = 0x84). -/
theorem test_hostStep_bounded_payload :
    hostStep boundedBuild .reset ⟨0x4020, [0x01, 0x02]⟩ = .refused (.hostOp .payloadTooLong)
      ∧ hostStep boundedBuild .reset ⟨0x4020, [0x01]⟩
        = .next (State.reset.emit (.txFrame [0xA5, 0x20, 0x01, 0x84]), [.txFrame [0xA5, 0x20, 0x01, 0x84]]) :=
  ⟨rfl, rfl⟩

/-- The same refusal at the port. -/
theorem test_stepIn_bounded_payload :
    stepIn boundedBuild { State.reset with port := [.hostOp 0x4020 [0x01, 0x02]] }
      = .refused (.hostOp .payloadTooLong) := rfl

/-- R192 with other nibbles: 0xB0 is a first marker, 0x6F a second one, and 0xA0 is discarded. -/
theorem test_execIn_other_markers :
    seen (execIn otherBuild (.rx 0xB0) (inExp .zero)) (fun t => (t.xd.ph, t.events)) = some (.hunt1, [])
      ∧ seen (execIn otherBuild (.rx 0x6F) (inExp { ExpRegs.zero with ph := .hunt1 })) (fun t => (t.xd.ph, t.xd.pos))
        = some (.body, 2)
      ∧ seen (execIn otherBuild (.rx 0xA0) (inExp .zero)) (fun t => t.events) = some [.invalidSync .exp] := by decide

/-- R191 with another limit: the third discarded byte reports the loss. -/
theorem test_execIn_other_limit :
    seen (execIn otherBuild (.rx 0xA0) (inExp { ExpRegs.zero with disc := 2, epi := true }))
      (fun t => (t.xd.disc, t.xd.los, t.events)) = some (3, true, [.lossOfSync 3]) := by decide

/-- R12: the step of START answers its events in order, those of the open session's end first (R105, R111). -/
theorem test_hostStep_start :
    (match hostStep otherBuild (inPayload 2 1) ⟨0x1200, []⟩ with
      | .next (t, es) => (t.mode, t.expect, es)
      | .fault _ => (.idle, .single, [])
      | .refused _ => (.idle, .single, []))
      = (.hdr, .exp, [.truncated .payload 1, .sessionEnd .restart, .sessionStart .exp]) := by decide

end Sys2Proof.Tests
end

section
/-! PROOF. Taking an item from the port and running it (R12, R100), and then the consumer's turn (R103). -/

namespace Sys2Proof.Machine

/-- The port gives its first item and keeps the others (log 3). -/
theorem fetch_of_port_cons {s : State} {tx : Transaction} {rest : List Transaction} (hp : s.port = tx :: rest) :
    fetch s = some (tx, { s with port := rest }) := by
  simp only [fetch, hp]

/-- With an item that decodes at the head of the port, a step is its instruction and then the consumer's turn. -/
theorem step_of_decode_ok {s : State} {tx : Transaction} {rest : List Transaction} {i : Instr}
    (hp : s.port = tx :: rest) (hd : decode Config.rpd tx = .ok i) :
    step s = andThen (exec i { s with port := rest }) (fun t => .next t.consumerReads) := by
  simp only [step, runItem, fetch_of_port_cons hp, hd, State.consumerReads]

/-- Settles O6: the step is a sequence of `exec` and the consumer's turn, which only a next state reaches. -/
theorem stepRunsTheDecodedInstruction : Obligations.StepRunsTheDecodedInstruction := by
  intro s tx rest i hp hd
  rw [step_of_decode_ok hp hd]
  cases exec i { s with port := rest } with
  | next t => rfl
  | fault e => rfl
  | refused e => rfl

end Sys2Proof.Machine
end

section
/-! PROOF. What an instruction can do, in its six kinds: send a frame, one of the four session operations, or feed bytes
(41_command_encoder.md R133 to R141, 40_host_interface.md R105 to R110, 30_encoding.md R80). -/

namespace Sys2Proof.Machine

/-- A command's row is ENCODE with the row's opcode and payload (R80). -/
theorem exec_of_commandParts {i : Instr} {op : Byte} {p : List Byte} (h : i.commandParts = some (op, p)) (s : State) :
    exec i s = sendFrame Config.rpd op p s := by
  cases i <;> cases h <;> rfl

/-- The states an instruction can answer from `s`, by its kind. -/
inductive ExecNext (s : State) : State → Prop
  | sent (frame : List Byte) : ExecNext s (s.emit (.txFrame frame))
  | reset : ExecNext s (abortSession Config.rpd .reset s).powerOn
  | started (e : Expect) :
      ExecNext s (((abortSession Config.rpd .restart s).sessionStart e).emit (.sessionStart e))
  | stopped : ExecNext s (abortSession Config.rpd .stop s)
  | failed : ExecNext s (raiseFatal Config.rpd .transportFailure .xfail s)
  | fed (bs : List Byte) (t : State) : feed Config.rpd bs s = .next t → ExecNext s t

/-- One inbound byte is a unit of one byte (R80). -/
theorem feed_singleton (c : Config) (b : Byte) (s : State) : feed c [b] s = rxByte c b s := by
  simp only [feed_cons]
  cases rxByte c b s <;> rfl

/-- Every next state an instruction answers is of one of those kinds. -/
theorem exec_next {i : Instr} {s t : State} (h : exec i s = .next t) : ExecNext s t := by
  cases hp : i.commandParts with
  | some command =>
    rw [exec_of_commandParts hp, sendFrame_rpd] at h
    cases h
    exact .sent _
  | none =>
    cases i with
    | reset => cases h; exact .reset
    | start e => cases h; exact .started e
    | stop => cases h; exact .stopped
    | rx b => exact .fed [b] t ((feed_singleton ..).trans h)
    | encode op p => cases h; exact .sent _
    | xfail => cases h; exact .failed
    | hostOpReserved w p => simp only [exec, execHostOpReserved] at h; split at h <;> cases h
    | respDesc len mode dtype => exact .fed _ t h
    | stdUnit u => exact .fed _ t h
    | expPacket p => exact .fed _ t h
    | expCabin cab => exact .fed _ t h
    | _ => cases hp

/-- No instruction touches the port or the consumer, which stand outside the block (log 3, log 4). -/
theorem exec_consumer {i : Instr} {s t : State} (h : exec i s = .next t) : t.consumer = s.consumer := by
  cases exec_next h with
  | fed bs _ hb =>
    exact feed_relation (R := fun s t => t.consumer = s.consumer) (fun _ => rfl)
      (fun _ _ _ _ hr hb => (rxByte_frame hb).2.2.trans hr) bs s t hb
  | _ => rfl

end Sys2Proof.Machine
end

section
/-! PROOF. The express decoder's registers keep their ranges (10_state.md R28, R29): one lemma per operation of
44_express_scan.md on them, and then one for a whole express byte. -/

namespace Sys2Proof.Machine

/-- The session-start values are in range (R35). -/
theorem ExpRegs.zero_ok : ExpRegs.zero.Ok := by
  simp [ExpRegs.Ok, ExpRegs.zero]

/-- The count after a discard is the number R191 gives, since it saturates below the register's 2⁷. -/
theorem discardRegs_disc_toNat (n : Nat) (x : ExpRegs) :
    (discardRegs Config.rpd n x).disc.toNat = min (x.disc.toNat + n) 85 := by
  simp only [discardRegs, discardCount, Config.rpd_losLimit, BitVec.toNat_ofNat]
  omega

/-- A discard opens the episode and counts at least one byte (R191). -/
theorem ExpRegs.Ok.discard {x : ExpRegs} {n : Nat} (hx : x.Ok) (hph : x.ph ≠ .body) (hn : 0 < n) :
    (discardRegs Config.rpd n x).Ok := by
  obtain ⟨-, hpos, -, -, hlos, hprev⟩ := hx
  have hdisc := discardRegs_disc_toNat n x
  refine ⟨fun hb => absurd hb hph, fun _ => hpos hph, by omega, ?_, ?_, hprev⟩
  · have hopen : (discardRegs Config.rpd n x).epi = true := rfl
    simp only [hopen, hdisc, true_iff]
    omega
  · have hflag : (discardRegs Config.rpd n x).los = true ↔ x.los = true ∨ 84 < min (x.disc.toNat + n) 85 := by
      simp [discardRegs, discardCount]
    rw [hflag, hlos, hdisc]
    omega

/-- Going from one hunting phase to the other keeps the ranges (R192). -/
theorem ExpRegs.Ok.hunting {x : ExpRegs} {ph : Phase} (hx : x.Ok) (hph : x.ph ≠ .body) (hph' : ph ≠ .body) :
    ({ x with ph := ph } : ExpRegs).Ok := by
  obtain ⟨-, hpos, hdisc, hepi, hlos, hprev⟩ := hx
  exact ⟨fun hb => absurd hb hph', fun _ => hpos hph, hdisc, hepi, hlos, hprev⟩

/-- The second marker ends the episode and enters the body at offset 2 (R192). -/
theorem ExpRegs.Ok.acquire {x : ExpRegs} (hx : x.Ok) : (acquireSync x).Ok := by
  obtain ⟨-, -, -, -, -, hprev⟩ := hx
  simpa [ExpRegs.Ok, acquireSync] using hprev

/-- In the body, going to another offset of it and latching what the byte carried keeps the ranges (R193, R195). -/
theorem ExpRegs.Ok.inBody {x : ExpRegs} (hx : x.Ok) (hb : x.ph = .body) {p : BitVec 7} (h2 : 2 ≤ p.toNat)
    (h83 : p.toNat ≤ 83) (refLo : BitVec 8) (ref : BitVec 15) (cab : Vector Byte 4) (cur : Vector Pair 32) :
    ({ x with pos := p, refLo := refLo, ref := ref, cab := cab, cur := cur } : ExpRegs).Ok := by
  obtain ⟨hbody, -, hdisc, hepi, hlos, hprev⟩ := hx
  obtain ⟨-, -, hzero⟩ := hbody hb
  exact ⟨fun _ => ⟨h2, h83, hzero⟩, fun h => absurd hb h, hdisc, hepi, hlos, hprev⟩

/-- A cabin byte is latched in `XD_CAB` or completes two entries of `XD_CUR`, and touches no other register (R195,
R198). -/
theorem cabinLatch_frame (k : Fin 16) (j : Nat) (b : Byte) (x : ExpRegs) :
    cabinLatch k j b x = { x with cab := (cabinLatch k j b x).cab, cur := (cabinLatch k j b x).cur } := by
  unfold cabinLatch
  split <;> rfl

/-- A committed packet leaves the decoder hunting, with a packet pending (R200). -/
theorem ExpRegs.Ok.commit {x : ExpRegs} (hx : x.Ok) : (packetCommit x).Ok := by
  obtain ⟨-, -, hdisc, hepi, hlos, -⟩ := hx
  exact ⟨by simp [packetCommit], fun _ => rfl, hdisc, hepi, hlos, by simp [packetCommit]⟩

theorem hunt0_ok {b : Byte} {s : State} (hx : s.xd.Ok) (hph : s.xd.ph = .hunt0) : (hunt0 Config.rpd b s).xd.Ok := by
  have hb : s.xd.ph ≠ .body := by simp [hph]
  unfold hunt0
  split
  · exact hx.hunting hb (by simp)
  · exact hx.discard hb (by simp)

theorem hunt1_ok {b : Byte} {s : State} (hx : s.xd.Ok) (hph : s.xd.ph = .hunt1) : (hunt1 Config.rpd b s).xd.Ok := by
  have hb : s.xd.ph ≠ .body := by simp [hph]
  unfold hunt1
  split_ifs
  · exact hx.acquire
  · exact hx.discard hb (by simp)
  · exact (hx.discard hb (by simp)).hunting hb (by simp)

/-- A cabin byte keeps the ranges: the last one commits the packet, any other moves on by one (R195). -/
theorem cabin_ok {x : ExpRegs} (hx : x.Ok) (hb : x.ph = .body) {k : Fin 16} {j : Nat} (hj : j < 5)
    (hp : x.pos.toNat = 4 + 5 * k.val + j) (b : Byte) :
    (if x.pos.toNat + 1 = Config.rpd.expUnit then packetCommit (cabinLatch k j b x)
      else { cabinLatch k j b x with pos := x.pos + 1 }).Ok := by
  have hk := k.isLt
  rw [cabinLatch_frame]
  split
  · exact (hx.inBody hb (by omega) (by omega) x.refLo x.ref _ _).commit
  · next hlast =>
    rw [Config.rpd_expUnit] at hlast
    have hadd : (x.pos + 1).toNat = x.pos.toNat + 1 := by rw [BitVec.toNat_add]; simp; omega
    exact hx.inBody hb (by omega) (by omega) x.refLo x.ref _ _

/-- Every express byte keeps the express registers in range (R190). -/
theorem expByte_ok {b : Byte} {s t : State} (hx : s.xd.Ok) (h : expByte Config.rpd b s = .next t) : t.xd.Ok := by
  rcases expByte_next h with
    ⟨hph, rfl⟩ | ⟨hph, rfl⟩ | ⟨hph, -, rfl⟩ | ⟨hph, -, rfl⟩ | ⟨hph, k, j, hj, hp, rfl⟩
  · exact hunt0_ok hx hph
  · exact hunt1_ok hx hph
  · exact hx.inBody hph (by simp) (by simp) b s.xd.ref s.xd.cab s.xd.cur
  · exact hx.inBody hph (by simp) (by simp) s.xd.refLo _ s.xd.cab s.xd.cur
  · exact cabin_ok hx hph hj hp b

end Sys2Proof.Machine
end

section
/-! PROOF. The register invariant (10_state.md R22, R25 to R29): what it says in each MODE, that the end of a session
and an event keep it, that every inbound byte keeps it, and so every instruction. -/

namespace Sys2Proof.Machine

/-! ## What MODE says -/

theorem State.modeOk_idle {s : State} (hm : s.mode = .idle) : s.ModeOk := by
  simp only [State.ModeOk, hm]

theorem State.modeOk_hdr {s : State} (hm : s.mode = .hdr) :
    s.ModeOk ↔ s.hp.cnt.toNat < 7 ∧ s.pl = .zero ∧ s.sd = .zero ∧ s.xd = .zero := by
  simp only [State.ModeOk, hm]

theorem State.modeOk_payload {s : State} (hm : s.mode = .payload) :
    s.ModeOk ↔ s.expect = .single ∧ s.hp.cnt = 7 ∧ s.pl.idx.toNat < s.pl.len.toNat ∧ s.sd = .zero
      ∧ s.xd = .zero := by
  simp only [State.ModeOk, hm]

theorem State.modeOk_std {s : State} (hm : s.mode = .std) :
    s.ModeOk ↔ s.expect = .std ∧ s.hp.cnt = 7 ∧ s.pl = .zero ∧ s.xd = .zero := by
  simp only [State.ModeOk, hm]

theorem State.modeOk_exp {s : State} (hm : s.mode = .exp) :
    s.ModeOk ↔ s.expect = .exp ∧ s.hp.cnt = 7 ∧ s.pl = .zero ∧ s.sd = .zero := by
  simp only [State.ModeOk, hm]

/-! ## Events and the end of a session -/

/-- In IDLE only the decoders' own ranges are asked for. -/
theorem State.RegsInv.idle {s t : State} (hs : s.RegsInv) (hm : t.mode = .idle) (hsd : t.sd = s.sd)
    (hxd : t.xd = s.xd) : t.RegsInv :=
  ⟨State.modeOk_idle hm, hsd ▸ hs.stdPos, hxd ▸ hs.exp⟩

/-- With both decoders at their session-start values only MODE's part is left to show. -/
theorem State.RegsInv.ofZero {s : State} (hmode : s.ModeOk) (hsd : s.sd = .zero) (hxd : s.xd = .zero) : s.RegsInv :=
  ⟨hmode, by simp [hsd, StdRegs.zero], hxd ▸ ExpRegs.zero_ok⟩

/-- An event is no register. -/
theorem State.RegsInv.emit {s : State} (hs : s.RegsInv) (e : Event) : (s.emit e).RegsInv :=
  ⟨hs.mode, hs.stdPos, hs.exp⟩

theorem State.powerOn_regsInv (s : State) : s.powerOn.RegsInv :=
  .ofZero (State.modeOk_idle rfl) rfl rfl

theorem State.sessionStart_regsInv (e : Expect) (s : State) : (s.sessionStart e).RegsInv :=
  .ofZero ((State.modeOk_hdr rfl).2 ⟨by simp [HeaderRegs.zero], rfl, rfl, rfl⟩) rfl rfl

/-! ## Inbound bytes -/

/-- The seventh byte of a descriptor ends the session or opens the response of the declared kind (R156). -/
theorem headerComplete_regsInv {s : State} (hm : s.mode = .hdr) (hc : s.hp.cnt = 7) (hpl : s.pl = .zero)
    (hsd : s.sd = .zero) (hxd : s.xd = .zero) : (headerComplete Config.rpd s).RegsInv := by
  rcases headerComplete_cases s hm hc with
    e | ⟨d, e⟩ | ⟨d, he, e⟩ | ⟨d, he, e⟩ | ⟨d, he, hlen, e⟩ | ⟨d, -, e⟩ <;> rw [e]
  · exact .ofZero (State.modeOk_idle rfl) hsd hxd
  · exact .ofZero (State.modeOk_idle rfl) hsd hxd
  · exact .ofZero ((State.modeOk_std rfl).2 ⟨he, hc, hpl, hxd⟩) hsd hxd
  · exact .ofZero ((State.modeOk_exp rfl).2 ⟨he, hc, hpl, hsd⟩) hsd hxd
  · have hpos : 0 < d.len.toNat := Nat.pos_of_ne_zero fun h0 => hlen (BitVec.eq_of_toNat_eq h0)
    exact .ofZero ((State.modeOk_payload rfl).2 ⟨he, hc, hpos, hsd, hxd⟩) hsd hxd
  · exact .ofZero (State.modeOk_idle rfl) hsd hxd

theorem headerByte_regsInv {b : Byte} {s t : State} (hm : s.mode = .hdr) (hs : s.RegsInv)
    (h : headerByte Config.rpd b s = .next t) : t.RegsInv := by
  obtain ⟨-, hpl, hsd, hxd⟩ := (State.modeOk_hdr hm).1 hs.mode
  rcases headerByte_next h with ⟨hc, rfl⟩ | ⟨-, rfl⟩
  · have hcnt : (s.hp.cnt + 1).toNat < 7 := by rw [BitVec.toNat_add]; simp; omega
    refine .ofZero ((State.modeOk_hdr ?_).2 ⟨hcnt, hpl, hsd, hxd⟩) hsd hxd
    exact hm
  · exact headerComplete_regsInv hm rfl hpl hsd hxd

theorem payloadByte_regsInv {b : Byte} {s t : State} (hm : s.mode = .payload) (hs : s.RegsInv)
    (h : payloadByte Config.rpd b s = .next t) : t.RegsInv := by
  obtain ⟨he, hc, hidx, hsd, hxd⟩ := (State.modeOk_payload hm).1 hs.mode
  obtain ⟨hlt, ⟨hne, rfl⟩ | ⟨-, rfl⟩⟩ := payloadByte_next hm h
  · have hadd : (s.pl.idx + 1).toNat < s.pl.len.toNat := by rw [BitVec.toNat_add]; simp; omega
    refine .ofZero ((State.modeOk_payload ?_).2 ⟨he, hc, hadd, hsd, hxd⟩) hsd hxd
    exact hm
  · exact .ofZero (State.modeOk_idle rfl) hsd hxd

/-- `SD_POS` goes round the five offsets of a unit (R27, R170). -/
theorem stdByte_pos_le {b : Byte} {s t : State} (h : stdByte b s = .next t) : t.sd.pos.toNat ≤ 4 := by
  rcases stdByte_next h with ⟨-, rfl⟩ | ⟨-, rfl⟩ | ⟨-, rfl⟩ | ⟨-, rfl⟩ | ⟨-, rfl⟩
  · simp [stdByte0]
  · simp [stdByte1]
  · simp [stdByte2]
  · simp [stdByte3]
  · simp [stdByte4]

theorem stdByte_regsInv {b : Byte} {s t : State} (hm : s.mode = .std) (hs : s.RegsInv) (h : stdByte b s = .next t) :
    t.RegsInv := by
  have hmode := (State.modeOk_std hm).1 hs.mode
  have hpos := stdByte_pos_le h
  rw [stdByte_frame h]
  refine ⟨(State.modeOk_std ?_).2 hmode, hpos, hs.exp⟩
  exact hm

theorem expByte_regsInv {b : Byte} {s t : State} (hm : s.mode = .exp) (hs : s.RegsInv)
    (h : expByte Config.rpd b s = .next t) : t.RegsInv := by
  have hmode := (State.modeOk_exp hm).1 hs.mode
  have hok := expByte_ok hs.exp h
  rw [expByte_frame h]
  refine ⟨(State.modeOk_exp ?_).2 hmode, hs.stdPos, hok⟩
  exact hm

/-- An inbound byte keeps the registers in range, whatever MODE sends it to (R108). -/
theorem rxByte_regsInv {b : Byte} {s t : State} (hs : s.RegsInv) (h : rxByte Config.rpd b s = .next t) :
    t.RegsInv := by
  rcases rxByte_next h with ⟨-, rfl⟩ | ⟨hm, h⟩ | ⟨hm, h⟩ | ⟨hm, h⟩ | ⟨hm, h⟩
  · exact hs
  · exact headerByte_regsInv hm hs h
  · exact payloadByte_regsInv hm hs h
  · exact stdByte_regsInv hm hs h
  · exact expByte_regsInv hm hs h

/-! ## Every instruction -/

/-- Settles O46, by the six kinds of instruction; fed bytes keep the invariant one at a time. -/
theorem execKeepsTheRegisterInvariant : Obligations.ExecKeepsTheRegisterInvariant := by
  intro s t i hs h
  cases exec_next h with
  | sent frame => exact hs.emit _
  | reset => exact State.powerOn_regsInv _
  | started e => exact (State.sessionStart_regsInv e _).emit _
  | stopped => exact hs.idle rfl rfl rfl
  | failed => exact hs.idle rfl rfl rfl
  | fed bs _ hb => exact feed_induction (fun _ _ _ hu hv => rxByte_regsInv hu hv) bs s t hs hb

end Sys2Proof.Machine
end

section
/-! PROOF. The event stream and MODE (60_exceptions.md R254): events that neither open nor close a session leave the
account of it alone, the end of a session closes it, and so every instruction keeps the two in step. With the consumer's
turn after it (45_scan_aggregator.md R230) that is the invariant of the whole machine. -/

namespace Sys2Proof.Machine

/-! ## Events of a stream -/

/-- Events that each leave an open session open and a closed one closed do so together. -/
theorem foldl_openAfter_of_forall {es : List Event} (h : ∀ e ∈ es, ∀ o, openAfter o e = o) (o : Bool) :
    es.foldl openAfter o = o := by
  induction es with
  | nil => rfl
  | cons e es ih =>
    rw [List.foldl_cons, h e (by simp) o]
    exact ih fun e' he' => h e' (by simp [he'])

/-- The samples and zero returns of a pending packet say nothing of the session (R194). -/
theorem openAfter_pendingEvent (c : Config) (prev ref : BitVec 15) (i : Nat) (p : Pair) (o : Bool) :
    openAfter o (pendingEvent c prev ref i p) = o := by
  unfold pendingEvent
  split <;> rfl

/-- No byte of a stream opens or closes a session (R22): whatever it adds leaves the account of it alone. -/
theorem RxEvents.foldl_openAfter_of_stream {b : Byte} {s : State} {es : List Event} (h : RxEvents b s es)
    (hm : s.mode = .std ∨ s.mode = .exp) (o : Bool) : es.foldl openAfter o = o := by
  cases h with
  | silent => rfl
  | stdFlag => simp only [newScanEvents]; split_ifs <;> rfl
  | stdUnit => simp only [stdUnitEvent]; split_ifs <;> rfl
  | search n => simp only [discardEvents]; split_ifs <;> rfl
  | reference =>
    refine foldl_openAfter_of_forall (fun e he o => ?_) o
    rcases List.mem_append.1 he with he | he
    · split at he
      · cases List.mem_singleton.1 he; rfl
      · cases he
    · split at he
      · obtain ⟨ei, -, rfl⟩ := List.mem_map.1 he
        exact openAfter_pendingEvent ..
      · cases he
  | _ => simp_all

/-! ## MODE and the stream -/

/-- The account goes on from MODE: it is enough to look at the events that were added. -/
theorem State.StreamInv.append {s t : State} {es : List Event} (hs : s.StreamInv) (he : t.events = s.events ++ es)
    (hes : es.foldl openAfter (decide (s.mode ≠ .idle)) = decide (t.mode ≠ .idle)) : t.StreamInv := by
  rw [State.StreamInv, he, sessionOpen_append, hs, hes]

/-- `AbortSession` closes the session it finds open (R111). -/
theorem abortSession_streamInv {s : State} (hs : s.StreamInv) (r : EndReason) :
    (abortSession Config.rpd r s).StreamInv := by
  refine hs.append (abortSession_events ..) ?_
  rcases abortEvents_cases Config.rpd r s with ⟨hm, he⟩ | ⟨-, he | ⟨src, n, he⟩⟩ <;> rw [he]
  · simp [hm]
  · rfl
  · rfl

theorem headerByte_streamInv {b : Byte} {s t : State} (hm : s.mode = .hdr) (hs : s.StreamInv)
    (h : headerByte Config.rpd b s = .next t) : t.StreamInv := by
  rcases headerByte_next h with ⟨_, rfl⟩ | ⟨-, rfl⟩
  · exact hs
  · rcases headerComplete_cases { s with hp := { cnt := 7, buf := s.hp.buf.set 6 b } } hm rfl with
      e | ⟨d, e⟩ | ⟨d, -, e⟩ | ⟨d, -, e⟩ | ⟨d, -, -, e⟩ | ⟨d, -, e⟩ <;>
    · rw [e]
      refine hs.append rfl ?_
      simp [hm, openAfter]

theorem payloadByte_streamInv {b : Byte} {s t : State} (hm : s.mode = .payload) (hs : s.StreamInv)
    (h : payloadByte Config.rpd b s = .next t) : t.StreamInv := by
  obtain ⟨-, ⟨-, rfl⟩ | ⟨-, rfl⟩⟩ := payloadByte_next hm h
  · exact hs.append rfl (by simp [openAfter])
  · exact hs.append rfl (by simp [openAfter])

/-- A byte of a stream leaves MODE and the account of the session as they are (R170, R190). -/
theorem streamByte_streamInv {b : Byte} {s t : State} (hs : s.StreamInv) (hm : s.mode = .std ∨ s.mode = .exp)
    (hmode : t.mode = s.mode) (h : rxByte Config.rpd b s = .next t) : t.StreamInv := by
  obtain ⟨es, hes, he⟩ := rxByte_events h
  exact hs.append he (by rw [hes.foldl_openAfter_of_stream hm, hmode])

theorem stdByte_mode {b : Byte} {s t : State} (h : stdByte b s = .next t) : t.mode = s.mode := by
  rw [stdByte_frame h]

theorem expByte_mode {c : Config} {b : Byte} {s t : State} (h : expByte c b s = .next t) : t.mode = s.mode := by
  rw [expByte_frame h]

/-- An inbound byte keeps MODE and the stream in step. -/
theorem rxByte_streamInv {b : Byte} {s t : State} (hs : s.StreamInv) (h : rxByte Config.rpd b s = .next t) :
    t.StreamInv := by
  rcases rxByte_next h with ⟨-, rfl⟩ | ⟨hm, hb⟩ | ⟨hm, hb⟩ | ⟨hm, hb⟩ | ⟨hm, hb⟩
  · exact hs
  · exact headerByte_streamInv hm hs hb
  · exact payloadByte_streamInv hm hs hb
  · exact streamByte_streamInv hs (.inl hm) (stdByte_mode hb) h
  · exact streamByte_streamInv hs (.inr hm) (expByte_mode hb) h

/-- Every instruction keeps MODE and the stream in step. -/
theorem exec_streamInv {i : Instr} {s t : State} (hs : s.StreamInv) (h : exec i s = .next t) : t.StreamInv := by
  cases exec_next h with
  | sent frame => exact hs.append (State.emit_events ..) rfl
  | reset => exact abortSession_streamInv hs .reset
  | started e => exact (abortSession_streamInv hs .restart).append rfl rfl
  | stopped => exact abortSession_streamInv hs .stop
  | failed => exact abortSession_streamInv (hs.append (State.emit_events ..) rfl) .xfail
  | fed bs _ hb => exact feed_induction (fun _ _ _ hu hv => rxByte_streamInv hu hv) bs s t hs hb

/-! ## The consumer's turn -/

/-- A consumer that had read the stream up to `s` and reads what was added up to `t` has read all of it, and is active
exactly while the stream says that a session is open. -/
theorem consumerReads_consumerInv {s t : State} (hs : s.StreamInv) (hc : s.ConsumerInv) (ht : t.StreamInv)
    (hk : t.consumer = s.consumer) (hev : s.events <+: t.events) : t.consumerReads.ConsumerInv := by
  obtain ⟨hread, hactive⟩ := hc
  obtain ⟨es, he⟩ := hev
  refine ⟨catchUp_eventsRead _ _ _ (by rw [hk, hread, ← he]; simp), ?_⟩
  calc (catchUp Config.rpd t.events t.consumer).active
      = (es.foldl (onEvent Config.rpd) s.consumer).active := by rw [catchUp, hk, hread, ← he, List.drop_left]
    _ = es.foldl openAfter (sessionOpen s.events) := by rw [foldl_onEvent_active, hactive, hs]
    _ = sessionOpen t.events := by rw [← he, sessionOpen_append]
    _ = decide (t.mode ≠ .idle) := ht

/-- A step that answers a next state waited at an empty port, or ran the instruction it took from it. -/
theorem step_next {s t : State} (h : step s = .next t) :
    t = s ∨ ∃ (rest : List Transaction) (i : Instr) (u : State),
      exec i { s with port := rest } = .next u ∧ t = u.consumerReads := by
  cases hp : s.port with
  | nil =>
    simp only [step, runItem, fetch, hp] at h
    cases h
    exact .inl rfl
  | cons tx rest =>
    cases hd : decode Config.rpd tx with
    | error why =>
      simp only [step, runItem, fetch_of_port_cons hp, hd] at h
      cases h
    | ok i =>
      rw [step_of_decode_ok hp hd] at h
      obtain ⟨u, hu, ht⟩ := andThen_eq_next.1 h
      cases ht
      exact .inr ⟨rest, i, u, hu, rfl⟩

/-- No part of the invariant reads the port (log 3). -/
theorem State.Inv.withPort {s : State} (hs : s.Inv) (rest : List Transaction) :
    ({ s with port := rest } : State).Inv := by
  obtain ⟨⟨hmode, hpos, hexp⟩, hstream, hconsumer⟩ := hs
  exact ⟨⟨hmode, hpos, hexp⟩, hstream, hconsumer⟩

/-- Settles O47: the instruction keeps the registers in range and MODE in step with the stream, and the consumer then
reads what was added. -/
theorem stepKeepsTheInvariant : Obligations.StepKeepsTheInvariant := by
  intro s t hs h
  rcases step_next h with rfl | ⟨rest, i, u, hu, rfl⟩
  · exact hs
  · obtain ⟨hregs, hstream, hconsumer⟩ := hs.withPort rest
    have hstream' := exec_streamInv hstream hu
    have hgrow := execIn_prefix ((execIn_rpd ..).trans hu)
    obtain ⟨hmode, hpos, hexp⟩ := execKeepsTheRegisterInvariant _ u i hregs hu
    exact ⟨⟨hmode, hpos, hexp⟩, hstream',
      consumerReads_consumerInv hstream hconsumer hstream' (exec_consumer hu) hgrow⟩

end Sys2Proof.Machine
end

section
/-! PROOF. The writers of MODE (10_state.md R22): in a session only a descriptor's seventh byte and a payload's last
write it. -/

namespace Sys2Proof.Machine

/-- Sending a frame writes no register (R143). -/
theorem sendFrame_mode {c : Config} {op : Byte} {p : List Byte} {s t : State} (h : sendFrame c op p s = .next t) :
    t.mode = s.mode := by
  unfold sendFrame at h
  split at h <;> cases h
  rfl

/-- A byte that writes MODE is the seventh of a descriptor or the last of a payload. -/
theorem rxByte_writes_mode {b : Byte} {s t : State} (h : rxByte Config.rpd b s = .next t) (hne : t.mode ≠ s.mode) :
    (s.mode = .hdr ∧ s.hp.cnt = 6)
      ∨ (s.mode = .payload ∧ s.pl.idx.toNat + 1 = s.pl.len.toNat ∧ t.mode = .idle) := by
  rcases rxByte_next h with ⟨-, rfl⟩ | ⟨hm, hb⟩ | ⟨hm, hb⟩ | ⟨-, hb⟩ | ⟨-, hb⟩
  · exact absurd rfl hne
  · rcases headerByte_next hb with ⟨_, rfl⟩ | ⟨hc, -⟩
    · exact absurd rfl hne
    · exact .inl ⟨hm, hc⟩
  · obtain ⟨-, ⟨-, rfl⟩ | ⟨hlast, rfl⟩⟩ := payloadByte_next hm hb
    · exact absurd rfl hne
    · exact .inr ⟨hm, hlast, rfl⟩
  · exact absurd (stdByte_mode hb) hne
  · exact absurd (expByte_mode hb) hne

/-- Settles O53: commands and ENCODE send a frame, the session operations write MODE outright, and a byte as
`rxByte_writes_mode` says. -/
theorem writersOfMode : Obligations.WritersOfMode := by
  intro s t i h
  refine ⟨?_, ?_, ?_, ?_⟩
  · rintro (hcommand | ⟨op, p, rfl⟩)
    · obtain ⟨⟨op, p⟩, hp⟩ := Option.ne_none_iff_exists'.1 hcommand
      exact sendFrame_mode ((exec_of_commandParts hp s).symm.trans h)
    · exact sendFrame_mode (c := Config.rpd) (op := op) (p := p) h
  · rintro ⟨k, rfl⟩
    cases h
    rfl
  · rintro (rfl | rfl | rfl)
    · cases h; rfl
    · cases h; rfl
    · cases h; rfl
  · rintro b rfl hne
    exact rxByte_writes_mode h hne

end Sys2Proof.Machine
end

section
/-! PROOF. The faults of registers outside their ranges (log 8), one lemma per unit. -/

namespace Sys2Proof.Machine

/-- `HP_BUF` has no eighth byte (R25). -/
theorem headerByte_overrun {s : State} (hc : s.hp.cnt = 7) (c : Config) (b : Byte) :
    headerByte c b s = .fault .headerOverrun := by
  have hfull : ¬ s.hp.cnt.toNat < 7 := by simp [hc]
  simp only [headerByte, hfull, dite_false]

/-- The largest `PL_IDX` has no successor (R26). -/
theorem payloadByte_overflow {s : State} (hi : s.pl.idx = BitVec.allOnes 30) (c : Config) (b : Byte) :
    payloadByte c b s = .fault .payloadIndexOverflow := by
  simp only [payloadByte, hi, if_true]

/-- A unit has no offset above 4 (R27). -/
theorem stdByte_outOfRange {s : State} (hp : 5 ≤ s.sd.pos.toNat) (b : Byte) :
    stdByte b s = .fault .stdOffsetOutOfRange := by
  unfold stdByte
  split
  case h_6 => rfl
  all_goals omega

/-- A body has no offset below 2 or above 83 (R28). -/
theorem expByte_outOfRange {s : State} (hph : s.xd.ph = .body) (hp : s.xd.pos.toNat < 2 ∨ 84 ≤ s.xd.pos.toNat)
    (c : Config) (b : Byte) : expByte c b s = .fault .expOffsetOutOfRange := by
  have h2 : s.xd.pos ≠ 2 := fun e => by simp [e] at hp
  have h3 : s.xd.pos ≠ 3 := fun e => by simp [e] at hp
  have hcabin : ¬ (4 ≤ s.xd.pos.toNat ∧ (s.xd.pos.toNat - 4) / 5 < 16) := by omega
  simp only [expByte, hph, h2, h3, if_false, cabinByte, hcabin, dite_false]

/-- RX in each MODE of a session is that unit's byte (R108). -/
theorem rxByte_eq (c : Config) (b : Byte) (s : State) :
    (s.mode = .hdr → rxByte c b s = headerByte c b s) ∧ (s.mode = .payload → rxByte c b s = payloadByte c b s)
      ∧ (s.mode = .std → rxByte c b s = stdByte b s) ∧ (s.mode = .exp → rxByte c b s = expByte c b s) := by
  refine ⟨?_, ?_, ?_, ?_⟩ <;> intro hm <;> simp only [rxByte, hm]

/-- Settles O27: RX goes to the unit MODE names, and that unit faults. -/
theorem outOfRangeRegistersFault : Obligations.OutOfRangeRegistersFault := by
  intro s b
  obtain ⟨hhdr, hpayload, hstd, hexp⟩ := rxByte_eq Config.rpd b s
  exact ⟨fun hm hc => (hhdr hm).trans (headerByte_overrun hc _ b),
    fun hm hi => (hpayload hm).trans (payloadByte_overflow hi _ b),
    fun hm hp => (hstd hm).trans (stdByte_outOfRange hp b),
    fun hm hph hp => (hexp hm).trans (expByte_outOfRange hph hp _ b)⟩

end Sys2Proof.Machine
end

section
/-! PROOF. The power-on state (10_state.md R35, 70_reset_and_hazards.md R280) and the parameters' defaults (00_scope.md
R7). -/

namespace Sys2Proof

/-- The defaults of R7 keep the bounds of a build, and the clock never goes back. -/
theorem Config.rpd_wf : Config.rpd.Wf where
  hdrLen := Config.rpd_hdrLen
  stdUnit := Config.rpd_stdUnit
  expCabins := Config.rpd_expCabins
  expSamples := by simp
  expUnit := by simp
  interpDiv := by simp
  losLimit := by simp
  degrees := by simp
  angleFits := by simp
  fifoRoom := by simp
  clock := Config.clock_le_succ

end Sys2Proof

namespace Sys2Proof.Machine

/-- At power-on the registers are in range, no event has been reported and the consumer has read none. -/
theorem State.reset_inv : State.reset.Inv where
  regs := .ofZero (State.modeOk_idle rfl) rfl rfl
  stream := rfl
  consumer := ⟨rfl, rfl⟩

/-- Settles O45: the power-on values meet each part of the invariant, and each default keeps its bound. -/
theorem resetMeetsTheInvariant : Obligations.ResetMeetsTheInvariant := ⟨State.reset_inv, Config.rpd_wf⟩

end Sys2Proof.Machine
end

section
/-! PROOF. The event stream and the delivered scans over a step (20_memory.md R58, 45_scan_aggregator.md R236). -/

namespace Sys2Proof.Machine

/-- Whatever events a consumer reads, the scans it has delivered stay as they are. -/
theorem foldl_onEvent_delivered (c : Config) (es : List Event) (k : Consumer) :
    k.delivered <+: (es.foldl (onEvent c) k).delivered := by
  induction es generalizing k with
  | nil => exact List.prefix_rfl
  | cons e es ih => exact (onEvent_delivered c k e).trans (ih _)

/-- Settles O55: the instruction adds events and leaves the consumer alone, and the consumer's turn leaves the stream
alone and adds scans. -/
theorem streamsOnlyGrow : Obligations.StreamsOnlyGrow := by
  intro s t h
  rcases step_next h with rfl | ⟨rest, i, u, hu, rfl⟩
  · exact ⟨List.prefix_rfl, List.prefix_rfl⟩
  · have hevents := execIn_prefix ((execIn_rpd ..).trans hu)
    have hconsumer := exec_consumer hu
    have hscans : u.consumer.delivered <+: u.consumerReads.consumer.delivered := foldl_onEvent_delivered ..
    exact ⟨hevents, hconsumer ▸ hscans⟩

end Sys2Proof.Machine
end

section
/-! PROOF. The end of a session flushes nothing (20_memory.md R60, 44_express_scan.md R203): the session operations
report only what they do to the session and to the transport. -/

namespace Sys2Proof.Machine

/-- The events that speak of the session or of its transport, and carry no data of a stream (R104, R111). -/
inductive Event.OfSession : Event → Prop
  | truncated (src : TruncSrc) (got : BitVec 30) : OfSession (.truncated src got)
  | ended (r : EndReason) : OfSession (.sessionEnd r)
  | started (e : Expect) : OfSession (.sessionStart e)
  | transportFailure : OfSession .transportFailure

/-- `AbortSession` reports the session's end and what it cut short, and nothing that was pending (R111). -/
theorem abortEvents_ofSession (c : Config) (r : EndReason) (s : State) : ∀ e ∈ abortEvents c r s, e.OfSession := by
  rcases abortEvents_cases c r s with ⟨-, he⟩ | ⟨-, he | ⟨src, n, he⟩⟩ <;> rw [he]
  · simp
  · simpa using Event.OfSession.ended r
  · simpa using ⟨Event.OfSession.truncated src n, Event.OfSession.ended r⟩

/-- STOP, RESET, XFAIL and START add only events of the session (R105 to R107, R110). -/
theorem sessionOperation_events {s t : State} {i : Instr} (hi : i = .stop ∨ i = .reset ∨ i = .xfail ∨ ∃ e, i = .start e)
    (h : exec i s = .next t) : ∃ es, t.events = s.events ++ es ∧ ∀ e ∈ es, e.OfSession := by
  rcases hi with rfl | rfl | rfl | ⟨k, rfl⟩ <;> cases h
  · exact ⟨_, rfl, abortEvents_ofSession _ _ _⟩
  · exact ⟨_, rfl, abortEvents_ofSession _ _ _⟩
  · refine ⟨.transportFailure :: abortEvents Config.rpd .xfail (s.emit .transportFailure), ?_, ?_⟩
    · simp [raiseFatal]
    · exact List.forall_mem_cons.2 ⟨.transportFailure, abortEvents_ofSession _ _ _⟩
  · refine ⟨abortEvents Config.rpd .restart s ++ [.sessionStart k], ?_, ?_⟩
    · simp
    · exact List.forall_mem_append.2 ⟨abortEvents_ofSession _ _ _, List.forall_mem_singleton.2 (.started k)⟩

/-- Settles O13: no event of the session is a boundary, a zero return or a sample. -/
theorem endingASessionFlushesNothing : Obligations.EndingASessionFlushesNothing := by
  intro s t i hi h
  obtain ⟨es, hevents, hes⟩ := sessionOperation_events hi h
  refine ⟨es, hevents, fun e he => ?_⟩
  cases hes e he <;> simp

end Sys2Proof.Machine
end

section
/-! PROOF. The four inbound units and their bytes (30_encoding.md R70, R73 to R76): a unit is written with the bytes it
was read from. -/

namespace Sys2Proof

/-! ## Fields taken apart and put together -/

/-- The low part of a joined vector. -/
@[simp] theorem extract_join_low {n m k : Nat} (hi : BitVec n) (lo : BitVec m) (h : n + m = k) :
    (join hi lo h).extractLsb' 0 m = lo := by
  refine BitVec.eq_of_toNat_eq ?_
  simp [Nat.mod_eq_of_lt lo.isLt]

/-- A field of a joined vector that lies above the low part. -/
@[simp] theorem extract_join_high {n m k i l : Nat} (hi : BitVec n) (lo : BitVec m) (h : n + m = k) (hm : m ≤ i) :
    (join hi lo h).extractLsb' i l = hi.extractLsb' (i - m) l := by
  obtain ⟨j, rfl⟩ := Nat.exists_eq_add_of_le hm
  have hdiv : (hi.toNat * 2 ^ m + lo.toNat) / 2 ^ m = hi.toNat := by
    rw [Nat.mul_comm, Nat.mul_add_div (Nat.two_pow_pos m), Nat.div_eq_of_lt lo.isLt, Nat.add_zero]
  refine BitVec.eq_of_toNat_eq ?_
  simp only [field_toNat, join_toNat, Nat.pow_add, ← Nat.div_div_eq_div_mul, hdiv, Nat.add_sub_cancel_left]

/-- Two fields of a vector that lie side by side are one field. -/
@[simp] theorem join_extract {w n m k i j : Nat} (v : BitVec w) (h : n + m = k) (hj : j = i + m) :
    join (v.extractLsb' j n) (v.extractLsb' i m) h = v.extractLsb' i k := by
  subst h hj
  refine BitVec.eq_of_toNat_eq ?_
  simp only [join_toNat, field_toNat, Nat.pow_add, ← Nat.div_div_eq_div_mul, Nat.mul_comm (2 ^ n)]
  rw [Nat.mod_mul, Nat.add_comm, Nat.mul_comm]

/-- A bit is a field of one bit. -/
@[simp] theorem flag_getElem {w : Nat} (v : BitVec w) (i : Nat) (h : i < w) : flag v[i] = v.extractLsb' i 1 := by
  refine BitVec.eq_of_toNat_eq ?_
  simp only [flag_toNat, elem_toNat, field_toNat, pow_one]

/-! ## Units -/

theorem encodeStdUnit_decodeStdUnit (b0 b1 b2 b3 b4 : Byte) :
    encodeStdUnit (decodeStdUnit b0 b1 b2 b3 b4) = [b0, b1, b2, b3, b4] := by
  simp [encodeStdUnit, decodeStdUnit]

theorem encodeCabin_decodeCabin (b0 b1 b2 b3 b4 : Byte) :
    encodeCabin (decodeCabin b0 b1 b2 b3 b4) = [b0, b1, b2, b3, b4] := by
  simp [encodeCabin, decodeCabin]

/-- Whole groups of five bytes are the bytes of the cabins read from them (R75). -/
theorem flatMap_encodeCabin_decodeCabins (bs : List Byte) (h : 5 ∣ bs.length) :
    (decodeCabins bs).flatMap encodeCabin = bs := by
  induction bs using decodeCabins.induct with
  | case1 b0 b1 b2 b3 b4 bs ih =>
    have hrest : 5 ∣ bs.length := by simpa [Nat.dvd_add_self_right] using h
    simp [decodeCabins, encodeCabin_decodeCabin, ih hrest]
  | case2 bs hshort =>
    match bs, h with
    | [], _ => rfl
    | [_], h | [_, _], h | [_, _, _], h | [_, _, _, _], h => simp at h
    | b0 :: b1 :: b2 :: b3 :: b4 :: bs, _ => exact absurd rfl (hshort b0 b1 b2 b3 b4 bs)

theorem encode_of_decodeRespDesc {c : Config} {bytes : List Byte} {i : Instr} (h : decodeRespDesc c bytes = .ok i) :
    encode c i = .feed .respDesc bytes := by
  unfold decodeRespDesc at h
  split at h
  · split_ifs at h with hsync
    cases h
    push Not at hsync
    obtain ⟨rfl, rfl⟩ := hsync
    simp [encode, encodeRespDesc]
  · cases h

theorem encode_of_decodeExpPacket {c : Config} {bytes : List Byte} {i : Instr} (h : decodeExpPacket c bytes = .ok i) :
    encode c i = .feed .expPacket bytes := by
  unfold decodeExpPacket at h
  split at h
  · split_ifs at h with hlen hsync
    cases h
    push Not at hsync
    obtain ⟨h0, h1⟩ := hsync
    have hbody := flatMap_encodeCabin_decodeCabins _ ⟨16, hlen.2⟩
    simp [encode, encodeExpPacket, encodePacketHead, ← h0, ← h1, hbody]
  · cases h

/-- A unit's instruction is written with the very bytes it was read from. -/
theorem encode_of_decodeUnit {c : Config} {f : UnitFormat} {bytes : List Byte} {i : Instr}
    (h : decodeUnit c f bytes = .ok i) : encode c i = .feed f bytes := by
  cases f with
  | respDesc => exact encode_of_decodeRespDesc h
  | expPacket => exact encode_of_decodeExpPacket h
  | stdUnit =>
    simp only [decodeUnit] at h
    split at h <;> cases h
    simp only [encode, encodeStdUnit_decodeStdUnit]
  | expCabin =>
    simp only [decodeUnit] at h
    split at h <;> cases h
    simp only [encode, encodeCabin_decodeCabin]

end Sys2Proof
end

section
/-! PROOF. The port and the consumer stand outside the block (log 3, log 4): an inbound byte does the same whatever they
hold, and hands them on as it found them. -/

namespace Sys2Proof.Machine

/-- `s` with other surroundings: what waits at the port, and the consumer. -/
def State.within (port : List Transaction) (k : Consumer) (s : State) : State := { s with port := port, consumer := k }

/-- What an operation answers, in other surroundings. -/
def withinResult (port : List Transaction) (k : Consumer) (r : Result) : Result :=
  andThen r fun t => .next (t.within port k)

/-- Other surroundings leave every register as it is. One lemma and not six equations by `rfl`: with such an equation
simp rewrites the condition of an `if` and leaves its decision procedure behind. -/
theorem State.within_registers (port : List Transaction) (k : Consumer) (s : State) :
    (s.within port k).mode = s.mode ∧ (s.within port k).expect = s.expect ∧ (s.within port k).hp = s.hp
      ∧ (s.within port k).pl = s.pl ∧ (s.within port k).sd = s.sd ∧ (s.within port k).xd = s.xd :=
  ⟨rfl, rfl, rfl, rfl, rfl, rfl⟩

/-- Reporting an event does not look at the surroundings. -/
theorem State.emit_within (e : Event) (port : List Transaction) (k : Consumer) (s : State) :
    (s.within port k).emit e = (s.emit e).within port k := rfl

section
variable (c : Config) (b : Byte) (p : List Transaction) (k : Consumer) (s : State)

theorem routeDescriptor_within (d : Descriptor) :
    routeDescriptor c d (s.within p k) = (routeDescriptor c d s).within p k := by
  simp only [routeDescriptor, State.within_registers]
  split
  · rfl
  · rfl
  · split <;> rfl

theorem headerComplete_within : headerComplete c (s.within p k) = (headerComplete c s).within p k := by
  simp only [headerComplete, State.within_registers, State.emit_within]
  split
  · rfl
  · rfl
  · split
    · exact routeDescriptor_within ..
    · rfl

theorem headerByte_within : headerByte c b (s.within p k) = withinResult p k (headerByte c b s) := by
  simp only [headerByte, State.within_registers]
  split
  · next hcnt =>
    split
    · exact congrArg _ (headerComplete_within c p k
        { s with hp := { cnt := s.hp.cnt + 1, buf := s.hp.buf.set s.hp.cnt.toNat b hcnt } })
    · rfl
  · rfl

theorem payloadByte_within : payloadByte c b (s.within p k) = withinResult p k (payloadByte c b s) := by
  simp only [payloadByte, State.within_registers]
  split
  · rfl
  · split <;> rfl

theorem stdByte_within : stdByte b (s.within p k) = withinResult p k (stdByte b s) := by
  simp only [stdByte, State.within_registers]
  split <;> rfl

theorem hunt0_within : hunt0 c b (s.within p k) = (hunt0 c b s).within p k := by
  unfold hunt0
  split <;> rfl

theorem hunt1_within : hunt1 c b (s.within p k) = (hunt1 c b s).within p k := by
  unfold hunt1
  split_ifs <;> rfl

theorem expByte_within : expByte c b (s.within p k) = withinResult p k (expByte c b s) := by
  simp only [expByte, State.within_registers]
  split
  · exact congrArg _ (hunt0_within ..)
  · exact congrArg _ (hunt1_within ..)
  · split_ifs
    · rfl
    · rfl
    · simp only [cabinByte, State.within_registers]
      split <;> rfl

theorem rxByte_within : rxByte c b (s.within p k) = withinResult p k (rxByte c b s) := by
  simp only [rxByte, State.within_registers]
  split
  · rfl
  · exact headerByte_within ..
  · exact payloadByte_within ..
  · exact stdByte_within ..
  · exact expByte_within ..

/-- Bytes do the same whatever the surroundings are. -/
theorem feed_within (bs : List Byte) : feed c bs (s.within p k) = withinResult p k (feed c bs s) := by
  induction bs generalizing s with
  | nil => rfl
  | cons b bs ih =>
    rw [feed_cons, feed_cons, rxByte_within]
    cases rxByte c b s with
    | next t => exact ih t
    | fault e => rfl
    | refused e => rfl

end

/-- Bytes hand the surroundings on as they found them. -/
theorem feed_surroundings {bs : List Byte} {s t : State} (h : feed Config.rpd bs s = .next t) :
    t.port = s.port ∧ t.consumer = s.consumer :=
  feed_relation (R := fun s t => t.port = s.port ∧ t.consumer = s.consumer) (fun _ => ⟨rfl, rfl⟩)
    (fun _ _ _ _ hr hb => by
      obtain ⟨-, hport, hconsumer⟩ := rxByte_frame hb
      exact ⟨hport.trans hr.1, hconsumer.trans hr.2⟩) bs s t h

end Sys2Proof.Machine
end

section
/-! PROOF. A whole unit at the port and its RX words (20_memory.md R56, 30_encoding.md R80; log 1). -/

namespace Sys2Proof.Machine

/-! ## One step -/

/-- An instruction that is written as a unit's bytes feeds them (R80). -/
theorem exec_of_encode_feed {i : Instr} {f : UnitFormat} {bytes : List Byte}
    (h : encode Config.rpd i = .feed f bytes) (s : State) : exec i s = feed Config.rpd bytes s := by
  cases i <;> cases h <;> rfl

/-- A unit of no bytes is no instruction (R70). -/
theorem decode_feed_nil (f : UnitFormat) : decode Config.rpd (.feed f []) = .error .unitWrongLength := by
  cases f <;> rfl

/-- An RX word decodes to its byte (R77, R101). -/
theorem decode_rxWord (b : Byte) : decode Config.rpd (.hostOp (hostWord 3 0 b) []) = .ok (.rx b) := by
  revert b
  decide

/-! ## The consumer's turns -/

/-- What an instruction answered, and then the consumer's turn (R103; log 4). -/
def thenReads (r : Result) : Result := andThen r fun t => .next t.consumerReads

/-- A turn of the consumer before the bytes makes no difference once it has its turn after them. -/
theorem feed_consumerReads {s : State} (bs : List Byte) (hread : s.consumer.eventsRead ≤ s.events.length) :
    thenReads (feed Config.rpd bs s.consumerReads) = thenReads (feed Config.rpd bs s) := by
  have hs : s.consumerReads = s.within s.port (catchUp Config.rpd s.events s.consumer) := rfl
  rw [hs, feed_within]
  cases hf : feed Config.rpd bs s with
  | next t =>
    obtain ⟨hport, hconsumer⟩ := feed_surroundings hf
    obtain ⟨es, he⟩ := feed_events hf
    have hcatch : catchUp Config.rpd t.events (catchUp Config.rpd s.events s.consumer)
        = catchUp Config.rpd t.events t.consumer := by
      rw [← he, hconsumer, catchUp_append _ _ _ _ hread]
    simp only [thenReads, withinResult, andThen_next, State.consumerReads, State.consumerReadsIn, State.within, hcatch,
      ← hport]
  | fault e => rfl
  | refused e => rfl

/-! ## As many steps as bytes -/

/-- The items that ask for the bytes, one RX word each (R77, R108). -/
def rxItems (bytes : List Byte) : List Transaction := bytes.map fun b => .hostOp (hostWord 3 0 b) []

/-- A run of one more step is that step and then the others. -/
theorem run_succ (n : Nat) (s : State) : Sys2Proof.core.run (n + 1) s = andThen (step s) (Sys2Proof.core.run n) := by
  cases h : step s <;> simp only [Host.Core.run, core, h] <;> rfl

/-- The first step of a run over RX words is its byte and a turn of the consumer; the other words stay at the port. -/
theorem run_rxItems_cons (n : Nat) (b : Byte) (bs : List Byte) (s : State) :
    Sys2Proof.core.run (n + 1) { s with port := rxItems (b :: bs) ++ s.port }
      = andThen (thenReads (rxByte Config.rpd b s))
          fun t => Sys2Proof.core.run n { t with port := rxItems bs ++ t.port } := by
  have hstep : step { s with port := rxItems (b :: bs) ++ s.port }
      = thenReads (rxByte Config.rpd b (s.within (rxItems bs ++ s.port) s.consumer)) :=
    step_of_decode_ok rfl (decode_rxWord b)
  rw [run_succ, hstep, rxByte_within]
  cases ht : rxByte Config.rpd b s with
  | next t =>
    obtain ⟨-, hport, hconsumer⟩ := rxByte_frame ht
    rw [← hport, ← hconsumer]
    rfl
  | fault e => rfl
  | refused e => rfl

/-- As many steps as there are RX words at the port feed their bytes, and the consumer ends as after one turn. -/
theorem run_rxItems (b : Byte) (bs : List Byte) (s : State) (hread : s.consumer.eventsRead ≤ s.events.length) :
    Sys2Proof.core.run (bs.length + 1) { s with port := rxItems (b :: bs) ++ s.port }
      = thenReads (feed Config.rpd (b :: bs) s) := by
  induction bs generalizing b s with
  | nil =>
    rw [run_rxItems_cons, feed_singleton]
    cases rxByte Config.rpd b s <;> rfl
  | cons b' bs ih =>
    rw [run_rxItems_cons, feed_cons]
    cases ht : rxByte Config.rpd b s with
    | next t =>
      obtain ⟨-, -, hconsumer⟩ := rxByte_frame ht
      have hread' : t.consumer.eventsRead ≤ t.events.length :=
        hconsumer ▸ hread.trans (rxByte_prefix ht).length_le
      exact (ih b' t.consumerReads (catchUp_eventsRead _ _ _ hread').le).trans (feed_consumerReads (b' :: bs) hread')
    | fault e => rfl
    | refused e => rfl

/-- Settles O44: the unit's instruction feeds its bytes. -/
theorem unitStepIsItsRxSteps : Obligations.UnitStepIsItsRxSteps := by
  intro s f bytes rest i hp hd hread
  rw [step_of_decode_ok hp hd, exec_of_encode_feed (encode_of_decodeUnit hd)]
  cases bytes with
  | nil => rw [decode_feed_nil] at hd; cases hd
  | cons b bs => exact run_rxItems b bs { s with port := rest } hread

end Sys2Proof.Machine
end

section
/-! PROOF. Words of host operations (30_encoding.md R77, R79; 40_host_interface.md R101, R102): the words that are
accepted are those the encoder writes, and all others are reserved. -/

namespace Sys2Proof

/-! ## The fields of a host word -/

@[simp] theorem hostTag_hostWord (tag : BitVec 4) (arg : BitVec 2) (data : Byte) :
    hostTag (hostWord tag arg data) = tag := by
  simp [hostTag, hostWord]

@[simp] theorem hostZero_hostWord (tag : BitVec 4) (arg : BitVec 2) (data : Byte) :
    hostZero (hostWord tag arg data) = 0 := by
  simp [hostZero, hostWord]

@[simp] theorem hostArg_hostWord (tag : BitVec 4) (arg : BitVec 2) (data : Byte) :
    hostArg (hostWord tag arg data) = arg := by
  simp [hostArg, hostWord]

@[simp] theorem hostData_hostWord (tag : BitVec 4) (arg : BitVec 2) (data : Byte) :
    hostData (hostWord tag arg data) = data := by
  simp [hostData, hostWord]

/-- A word whose reserved bits are 0 is its three other fields. -/
theorem hostWord_fields {w : HostWord} (hz : hostZero w = 0) : hostWord (hostTag w) (hostArg w) (hostData w) = w := by
  rw [hostWord, ← hz]
  simp [hostTag, hostZero, hostArg, hostData]

/-! ## Accepted and reserved words -/

/-- The words that come with no payload list, and what each asks for (R77). -/
inductive PlainWord : HostWord → Instr → Prop
  | reset : PlainWord (hostWord 0 0 0) .reset
  | start (e : Expect) : PlainWord (hostWord 1 e.code 0) (.start e)
  | stop : PlainWord (hostWord 2 0 0) .stop
  | rx (b : Byte) : PlainWord (hostWord 3 0 b) (.rx b)
  | xfail : PlainWord (hostWord 5 0 0) .xfail

/-- R102 from its other side: what each field of a word that is not refused holds. -/
theorem hostWordRefusal_eq_none {w : HostWord} :
    hostWordRefusal w = none ↔ (hostTag w).toNat < 6 ∧ hostZero w = 0 ∧ (hostTag w ≠ 1 → hostArg w = 0)
      ∧ (hostTag w = 1 → hostArg w ≠ 3) ∧ (hostTag w ≠ 3 → hostTag w ≠ 4 → hostData w = 0) := by
  unfold hostWordRefusal
  split_ifs <;> simp_all

theorem PlainWord.not_refused {w : HostWord} {i : Instr} (h : PlainWord w i) : hostWordRefusal w = none := by
  rw [hostWordRefusal_eq_none]
  cases h with
  | start e => cases e <;> simp [Expect.code]
  | _ => simp

theorem encodeWord_not_refused (op : Byte) : hostWordRefusal (hostWord 4 0 op) = none := by
  simp [hostWordRefusal_eq_none]

/-- START's argument, when it is not the reserved value 3, is an expected kind's code (R23). -/
theorem code_expectOfArg {a : BitVec 2} (h : a ≠ 3) : (expectOfArg a).code = a := by
  revert a; decide

theorem expectOfArg_code (e : Expect) : expectOfArg e.code = e := by
  cases e <;> rfl

/-- A word that is not refused has one of the six tags, and only the fields its tag uses are not 0. -/
theorem plainWord_or_encodeWord {w : HostWord} (h : hostWordRefusal w = none) :
    (∃ i, PlainWord w i) ∨ ∃ op, w = hostWord 4 0 op := by
  obtain ⟨htag, hzero, harg, hstart, hdata⟩ := hostWordRefusal_eq_none.1 h
  rw [← hostWord_fields hzero]
  generalize hostTag w = tag at *
  generalize hostArg w = arg at *
  generalize hostData w = data at *
  obtain ⟨n, rfl⟩ : ∃ n : Fin 6, tag = BitVec.ofNat 4 n := ⟨⟨tag.toNat, htag⟩, by simp⟩
  match n with
  | 0 => rw [harg (by decide), hdata (by decide) (by decide)]; exact .inl ⟨_, .reset⟩
  | 1 =>
    rw [← code_expectOfArg (hstart (by decide)), hdata (by decide) (by decide)]
    exact .inl ⟨_, .start _⟩
  | 2 => rw [harg (by decide), hdata (by decide) (by decide)]; exact .inl ⟨_, .stop⟩
  | 3 => rw [harg (by decide)]; exact .inl ⟨_, .rx data⟩
  | 4 => rw [harg (by decide)]; exact .inr ⟨data, rfl⟩
  | 5 => rw [harg (by decide), hdata (by decide) (by decide)]; exact .inl ⟨_, .xfail⟩

/-- The arithmetic of R79 and the fields of R102 refuse the same words. -/
theorem reservedHostWord_eq (w : HostWord) : reservedHostWord w = (hostWordRefusal w).isSome := by
  have htag : (hostTag w).toNat = w.toNat / 4096 := (field_toNat w 12 4).trans (by omega)
  have hzero : (hostZero w).toNat = w.toNat / 1024 % 4 := field_toNat w 10 2
  have harg : (hostArg w).toNat = w.toNat / 256 % 4 := field_toNat w 8 2
  have hdata : (hostData w).toNat = w.toNat % 256 := (field_toNat w 0 8).trans (by omega)
  rw [Bool.eq_iff_iff, ← not_iff_not]
  simp only [Bool.not_eq_true, Option.isSome_eq_false_iff, Option.isNone_iff_eq_none, hostWordRefusal_eq_none]
  simp [reservedHostWord, ← BitVec.toNat_inj, htag, hzero, harg, hdata]
  omega

/-! ## Decoding -/

theorem decodeHostOp_of_refused {w : HostWord} {why : HostOpRefusal} (h : hostWordRefusal w = some why) (c : Config)
    (p : List Byte) : decodeHostOp c w p = .ok (.hostOpReserved w p) := by
  simp [decodeHostOp, h]

theorem decodeHostOp_encodeWord (c : Config) (op : Byte) (p : List Byte) :
    decodeHostOp c (hostWord 4 0 op) p = if payloadFits c p then .ok (.encode op p) else .error .payloadTooLong := by
  rw [decodeHostOp, encodeWord_not_refused]
  simp

theorem PlainWord.decodeHostOp {w : HostWord} {i : Instr} (h : PlainWord w i) (c : Config) (p : List Byte) :
    decodeHostOp c w p = if p = [] then .ok i else .error .payloadWithoutEncode := by
  rw [Sys2Proof.decodeHostOp, h.not_refused]
  cases h <;> simp [expectOfArg_code]

theorem PlainWord.encode {w : HostWord} {i : Instr} (h : PlainWord w i) (c : Config) :
    encode c i = .hostOp w [] ∧ i.wf c = true := by
  cases h <;> exact ⟨rfl, rfl⟩

/-- A host word with its payload list is the encoding of the instruction read from it. -/
theorem encode_of_decodeHostOp {c : Config} {w : HostWord} {p : List Byte} {i : Instr}
    (h : decodeHostOp c w p = .ok i) : encode c i = .hostOp w p ∧ i.wf c = true := by
  cases hr : hostWordRefusal w with
  | some why =>
    rw [decodeHostOp_of_refused hr] at h
    cases h
    exact ⟨rfl, by simp [Instr.wf, reservedHostWord_eq, hr]⟩
  | none =>
    obtain ⟨j, hj⟩ | ⟨op, rfl⟩ := plainWord_or_encodeWord hr
    · rw [hj.decodeHostOp] at h
      split at h <;> cases h
      subst p
      exact hj.encode c
    · rw [decodeHostOp_encodeWord] at h
      split at h <;> cases h
      exact ⟨rfl, by assumption⟩

end Sys2Proof
end

section
/-! PROOF. Command frames (30_encoding.md R71, R78): a frame is its opcode and payload, and these tell the command row
apart. -/

namespace Sys2Proof

/-! ## Frames -/

/-- The decoder takes a frame's last byte for its checksum and what stands between opcode and checksum for its payload
(R71). -/
theorem decodeCommand_append (c : Config) (sync op sum : Byte) (p : List Byte) :
    decodeCommand c (sync :: op :: (p ++ [sum])) =
      if sync ≠ c.cmdSync then .error .frameBadSync
      else if sum ≠ xorFold (sync :: op :: p) then .error .frameBadChecksum
      else if payloadFits c p then .ok (commandOf op p)
      else .error .payloadTooLong := by
  obtain ⟨b, bs, h⟩ : ∃ b bs, p ++ [sum] = b :: bs := List.exists_cons_of_ne_nil (by simp)
  rw [h]
  simp only [decodeCommand, ← h, List.dropLast_concat, List.getLast_concat]
  rfl

/-- The frame of an opcode and a payload is read back as the command they stand for. -/
theorem decodeCommand_commandFrame {c : Config} {p : List Byte} (hp : payloadFits c p = true) (op : Byte) :
    decodeCommand c (commandFrame c op p) = .ok (commandOf op p) := by
  simp [commandFrame, decodeCommand_append, hp]

/-- A frame the decoder accepts is the frame of some opcode and payload. -/
theorem commandFrame_of_decodeCommand {c : Config} {frame : List Byte} {i : Instr} (h : decodeCommand c frame = .ok i) :
    ∃ op p, frame = commandFrame c op p ∧ payloadFits c p = true ∧ i = commandOf op p := by
  match frame, h with
  | sync :: op :: b :: bs, h =>
    obtain hnil | ⟨p, sum, hp⟩ := List.eq_nil_or_concat' (b :: bs)
    · cases hnil
    · rw [hp, decodeCommand_append] at h
      rw [hp]
      split_ifs at h with hsync hsum hfits
      cases h
      push Not at hsync hsum
      exact ⟨op, p, by simp [commandFrame, hsync, hsum], hfits, rfl⟩

/-! ## Rows -/

/-- A command row is written as the frame of its opcode and payload (R78). -/
theorem encode_of_commandParts {i : Instr} {op : Byte} {p : List Byte} (h : i.commandParts = some (op, p))
    (c : Config) : encode c i = .command (commandFrame c op p) := by
  cases i <;> cases h <;> rfl

/-- The frames of the command table and their rows (R133 to R140). -/
inductive NamedCommand : Byte → List Byte → Instr → Prop
  | getInfo : NamedCommand 0x50 [] .getInfo
  | getHealth : NamedCommand 0x52 [] .getHealth
  | getSampleRate : NamedCommand 0x59 [] .getSampleRate
  | scan : NamedCommand 0x20 [] .scan
  | expressScan : NamedCommand 0x82 [0x00, 0x00, 0x00, 0x00, 0x00] .expressScan
  | stopScan : NamedCommand 0x25 [] .stopScan
  | resetDev : NamedCommand 0x40 [] .resetDev
  | setMotorPwm (lo hi : Byte) : NamedCommand 0xF0 [lo, hi] (.setMotorPwm (join hi lo))

theorem NamedCommand.commandOf {op : Byte} {p : List Byte} {i : Instr} (h : NamedCommand op p i) :
    commandOf op p = i := by
  cases h <;> rfl

theorem NamedCommand.commandParts {op : Byte} {p : List Byte} {i : Instr} (h : NamedCommand op p i) :
    i.commandParts = some (op, p) := by
  cases h with
  | setMotorPwm lo hi => simp [Instr.commandParts]
  | _ => rfl

/-- A row's frame fits where the row is an instruction: the payload's length is the row's (R102). -/
theorem NamedCommand.wf {op : Byte} {p : List Byte} {i : Instr} (h : NamedCommand op p i) {c : Config}
    (hp : payloadFits c p = true) : i.wf c = true := by
  cases h with
  | expressScan => exact hp
  | setMotorPwm lo hi => exact hp
  | _ => rfl

/-- The check of R141 is this table. -/
theorem namedCommand_iff {op : Byte} {p : List Byte} : namedCommand op p = true ↔ ∃ i, NamedCommand op p i := by
  constructor
  · intro h
    simp only [namedCommand, Bool.or_eq_true, Bool.and_eq_true, beq_iff_eq, List.isEmpty_iff,
      List.length_eq_two] at h
    obtain (⟨((((rfl | rfl) | rfl) | rfl) | rfl) | rfl, rfl⟩ | ⟨rfl, rfl⟩) | ⟨rfl, lo, hi, rfl⟩ := h
    · exact ⟨_, .getInfo⟩
    · exact ⟨_, .getHealth⟩
    · exact ⟨_, .getSampleRate⟩
    · exact ⟨_, .scan⟩
    · exact ⟨_, .stopScan⟩
    · exact ⟨_, .resetDev⟩
    · exact ⟨_, .expressScan⟩
    · exact ⟨_, .setMotorPwm lo hi⟩
  · rintro ⟨i, h⟩
    cases h <;> rfl

/-- An opcode and a payload that are no frame of the command table stand for ENCODE_ANY (R78): 0xF0 asks for two bytes
of payload, and every other opcode of the table for one payload. -/
theorem commandOf_of_unnamed {op : Byte} {p : List Byte} (h : namedCommand op p = false) :
    commandOf op p = .encodeAny op p := by
  by_cases hop : op = 0xF0
  · subst hop
    match p, h with
    | [], _ => rfl
    | [_], _ => rfl
    | [_, _], h => simp [namedCommand] at h
    | _ :: _ :: _ :: _, _ => rfl
  · unfold commandOf
    split_ifs <;> simp_all [namedCommand]

/-- An opcode and a payload stand for their row of the command table, or else for ENCODE_ANY. -/
theorem commandOf_cases (op : Byte) (p : List Byte) :
    NamedCommand op p (commandOf op p) ∨ (namedCommand op p = false ∧ commandOf op p = .encodeAny op p) := by
  cases h : namedCommand op p with
  | true =>
    obtain ⟨i, hi⟩ := namedCommand_iff.1 h
    exact .inl (hi.commandOf ▸ hi)
  | false => exact .inr ⟨rfl, commandOf_of_unnamed h⟩

theorem commandParts_commandOf (op : Byte) (p : List Byte) : (commandOf op p).commandParts = some (op, p) := by
  obtain h | ⟨-, h⟩ := commandOf_cases op p
  · exact h.commandParts
  · rw [h]; rfl

theorem commandOf_wf {c : Config} {p : List Byte} (hp : payloadFits c p = true) (op : Byte) :
    (commandOf op p).wf c = true := by
  obtain h | ⟨hn, h⟩ := commandOf_cases op p
  · exact h.wf hp
  · simp [h, Instr.wf, hp, hn]

/-- A well-formed command row is what its opcode and payload stand for (R78). -/
theorem commandOf_of_commandParts {c : Config} {i : Instr} {op : Byte} {p : List Byte} (hwf : i.wf c = true)
    (h : i.commandParts = some (op, p)) : commandOf op p = i := by
  cases i with
  | encodeAny op' p' =>
    cases h
    simp only [Instr.wf, Bool.and_eq_true, Bool.not_eq_true'] at hwf
    exact commandOf_of_unnamed hwf.2
  | setMotorPwm v =>
    cases h
    rw [(NamedCommand.setMotorPwm _ _).commandOf]
    simp
  | _ => cases h <;> rfl

/-- No bound shuts out the empty payload. -/
theorem payloadFits_nil (c : Config) : payloadFits c [] = true := by
  unfold payloadFits
  split <;> simp

/-- The payload of a well-formed command row fits (R102). -/
theorem payloadFits_of_commandParts {c : Config} {i : Instr} {op : Byte} {p : List Byte} (hwf : i.wf c = true)
    (h : i.commandParts = some (op, p)) : payloadFits c p = true := by
  cases i with
  | encodeAny op' p' =>
    cases h
    simp only [Instr.wf, Bool.and_eq_true] at hwf
    exact hwf.1
  | setMotorPwm v => cases h; exact hwf
  | expressScan => cases h; exact hwf
  | _ => cases h <;> exact payloadFits_nil c

end Sys2Proof
end

section
/-! PROOF. The four inbound units read back from their bytes (30_encoding.md R73 to R76). -/

namespace Sys2Proof

/-! ## Bits of joined vectors -/

@[simp] theorem getElem_join_low {n m k i : Nat} (hi : BitVec n) (lo : BitVec m) (h : n + m = k) (hik : i < k)
    (him : i < m) :
    (join hi lo h)[i] = lo[i] := by
  subst h
  simp [join, BitVec.getElem_append, him]

@[simp] theorem getElem_join_high {n m k i : Nat} (hi : BitVec n) (lo : BitVec m) (h : n + m = k) (hik : i < k)
    (hm : m ≤ i) :
    (join hi lo h)[i] = hi[i - m] := by
  subst h
  simp [join, BitVec.getElem_append, Nat.not_lt.2 hm]

@[simp] theorem getElem_flag (b : Bool) : (flag b)[0] = b := by
  cases b <;> rfl

/-! ## Units -/

theorem decodeRespDesc_encodeRespDesc (c : Config) (len : BitVec 30) (mode : BitVec 2) (dtype : Byte) :
    decodeRespDesc c (encodeRespDesc c len mode dtype) = .ok (.respDesc len mode dtype) := by
  simp [decodeRespDesc, encodeRespDesc]

theorem decodeUnit_encodeStdUnit (c : Config) (u : StdUnit) :
    decodeUnit c .stdUnit (encodeStdUnit u) = .ok (.stdUnit u) := by
  simp [decodeUnit, encodeStdUnit, decodeStdUnit]

/-- A cabin is read back from the five bytes it is written as. -/
theorem exists_decodeCabin_encodeCabin (cab : Cabin) :
    ∃ b0 b1 b2 b3 b4, encodeCabin cab = [b0, b1, b2, b3, b4] ∧ decodeCabin b0 b1 b2 b3 b4 = cab :=
  ⟨_, _, _, _, _, rfl, by simp [decodeCabin]⟩

theorem decodeUnit_encodeCabin (c : Config) (cab : Cabin) :
    decodeUnit c .expCabin (encodeCabin cab) = .ok (.expCabin cab) := by
  obtain ⟨_, _, _, _, _, hbytes, hcab⟩ := exists_decodeCabin_encodeCabin cab
  simp only [hbytes, decodeUnit, hcab]

theorem decodeCabins_flatMap_encodeCabin (cabs : List Cabin) : decodeCabins (cabs.flatMap encodeCabin) = cabs := by
  induction cabs with
  | nil => rfl
  | cons cab cabs ih =>
    obtain ⟨_, _, _, _, _, hbytes, hcab⟩ := exists_decodeCabin_encodeCabin cab
    simp only [List.flatMap_cons, hbytes, List.cons_append, List.nil_append, decodeCabins, hcab, ih]

theorem decodeExpPacket_encodeExpPacket (c : Config) (p : ExpPacket) :
    decodeExpPacket c (encodeExpPacket c p) = .ok (.expPacket p) := by
  have hlen : (p.cabins.toList.flatMap encodeCabin).length = 80 := by
    rw [Laws.EncodedLength.length_cabins, Vector.length_toList]
  simp [encodeExpPacket, encodePacketHead, decodeExpPacket, hlen, decodeCabins_flatMap_encodeCabin]
  rfl

end Sys2Proof
end

section
/-! PROOF. The decoder and the encoder are each other's inverse, for whole items at the port (30_encoding.md R71 to
R77). -/

namespace Sys2Proof

/-- Under every configuration a well-formed instruction is read back from its encoding. -/
theorem decode_encode {c : Config} {i : Instr} (hwf : i.wf c = true) : decode c (encode c i) = .ok i := by
  cases hp : i.commandParts with
  | some command =>
    obtain ⟨op, p⟩ := command
    rw [encode_of_commandParts hp, decode, decodeCommand_commandFrame (payloadFits_of_commandParts hwf hp),
      commandOf_of_commandParts hwf hp]
  | none =>
    cases i with
    | reset => exact PlainWord.reset.decodeHostOp c []
    | start e => exact (PlainWord.start e).decodeHostOp c []
    | stop => exact PlainWord.stop.decodeHostOp c []
    | rx b => exact (PlainWord.rx b).decodeHostOp c []
    | encode op p => exact (decodeHostOp_encodeWord c op p).trans (if_pos hwf)
    | xfail => exact PlainWord.xfail.decodeHostOp c []
    | hostOpReserved w p =>
      obtain ⟨why, hwhy⟩ := Option.isSome_iff_exists.1 ((reservedHostWord_eq w).symm.trans hwf)
      exact decodeHostOp_of_refused hwhy c p
    | respDesc len mode dtype => exact decodeRespDesc_encodeRespDesc c len mode dtype
    | stdUnit u => exact decodeUnit_encodeStdUnit c u
    | expPacket p => exact decodeExpPacket_encodeExpPacket c p
    | expCabin cab => exact decodeUnit_encodeCabin c cab
    | _ => cases hp

/-- Settles O1: the command rows by their frames, the host operations by their words, and the units by their bytes. -/
theorem decodeOfEncodeIsIdentity : Obligations.DecodeOfEncodeIsIdentity := fun _ hwf => decode_encode hwf

/-- What is read from a unit's bytes is an instruction under every configuration. -/
theorem wf_of_decodeUnit {c : Config} {f : UnitFormat} {bytes : List Byte} {i : Instr}
    (h : decodeUnit c f bytes = .ok i) : i.wf c = true := by
  have hfeed := encode_of_decodeUnit h
  cases i with
  | respDesc _ _ _ => rfl
  | stdUnit _ => rfl
  | expPacket _ => rfl
  | expCabin _ => rfl
  | _ => cases hfeed

/-- Under every configuration an item that decodes is the encoding of the well-formed instruction it gives. -/
theorem encode_of_decode {c : Config} {tx : Transaction} {i : Instr} (h : decode c tx = .ok i) :
    encode c i = tx ∧ i.wf c = true := by
  cases tx with
  | hostOp w p => exact encode_of_decodeHostOp h
  | command frame =>
    obtain ⟨op, p, rfl, hfits, rfl⟩ := commandFrame_of_decodeCommand h
    exact ⟨encode_of_commandParts (commandParts_commandOf op p) c, commandOf_wf hfits op⟩
  | feed f bytes => exact ⟨encode_of_decodeUnit h, wf_of_decodeUnit h⟩

/-- Settles O2: the item's kind tells whether a word, a frame or a unit was read. -/
theorem encodeOfDecodeIsIdentity : Obligations.EncodeOfDecodeIsIdentity := fun _ _ h => encode_of_decode h

/-- A row's bits that are the encoding of a well-formed instruction decode to it. -/
theorem decodeTableWord_of_encode {nbits w : Nat} {i : Instr} (hwf : i.wf Config.rpd = true)
    (h : tableTransaction nbits w = encode Config.rpd i) : decodeTableWord nbits w = some i := by
  rw [decodeTableWord, h, decode_encode hwf, Except.toOption]

/-- An item that is the encoding of a well-formed instruction decodes to it. -/
theorem decode_of_encode {c : Config} {tx : Transaction} {i : Instr} (hwf : i.wf c = true) (h : tx = encode c i) :
    decode c tx = .ok i := by
  rw [h, decode_encode hwf]

/-- Settles O3: each word is the encoding of its row, so `decode_encode` reads it back. -/
theorem tableWordsDecodeToTheirRows : Obligations.TableWordsDecodeToTheirRows := by
  refine ⟨decodeTableWord_of_encode ?_ ?_, decodeTableWord_of_encode ?_ ?_, decodeTableWord_of_encode ?_ ?_,
    decodeTableWord_of_encode ?_ ?_, decodeTableWord_of_encode ?_ ?_, decodeTableWord_of_encode ?_ ?_,
    decode_of_encode ?_ ?_⟩
  all_goals decide

end Sys2Proof
end

section
/-! PROOF. CMD and ENCODE (30_encoding.md R80). -/

namespace Sys2Proof.Machine

/-- A command's expansion is ENCODE with the opcode and payload of its row. -/
theorem CommandName.expand_of_row (name : CommandName) :
    ∃ op p, name.row.commandParts = some (op, p) ∧ name.expand = .encode op p := by
  cases name <;> exact ⟨_, _, rfl, rfl⟩

/-- Settles O18: the row and its expansion send the same frame. -/
theorem commandIsItsEncodeExpansion : Obligations.CommandIsItsEncodeExpansion := by
  intro name s
  obtain ⟨op, p, hrow, hexpand⟩ := name.expand_of_row
  rw [exec_of_commandParts hrow, hexpand]
  rfl

end Sys2Proof.Machine
end

section
/-! PROOF. A whole descriptor, byte by byte (30_encoding.md R73; 42_response_header.md R150, R155 to R157). -/

namespace Sys2Proof.Machine

/-! ## Collecting the bytes -/

/-- Before the seventh byte a byte only goes into the buffer (R155). -/
theorem headerByte_collect {s : State} (hc : s.hp.cnt.toNat < 6) (b : Byte) :
    headerByte Config.rpd b s = .next { s with
      hp := { cnt := s.hp.cnt + 1, buf := s.hp.buf.set s.hp.cnt.toNat b (by omega) } } := by
  have h7 : s.hp.cnt.toNat < 7 := by omega
  have hne : (s.hp.cnt + 1).toNat ≠ 7 := by rw [BitVec.toNat_add]; simp; omega
  simp only [headerByte, h7, dite_true, Config.rpd_hdrLen, hne, if_false]

/-- The seventh byte completes the header in its own step (R155). -/
theorem headerByte_seventh {s : State} (hc : s.hp.cnt = 6) (b : Byte) :
    headerByte Config.rpd b s = .next (headerComplete Config.rpd { s with
      hp := { cnt := 7, buf := s.hp.buf.set 6 b } }) := by
  simp [headerByte, hc]

/-- Seven bytes leave nothing of what the buffer held. -/
theorem headerBuffer_overwritten (buf : Vector Byte 7) (b0 b1 b2 b3 b4 b5 b6 : Byte) :
    ((((((buf.set 0 b0).set 1 b1).set 2 b2).set 3 b3).set 4 b4).set 5 b5).set 6 b6
      = #v[b0, b1, b2, b3, b4, b5, b6] := by
  obtain ⟨⟨l⟩, hl⟩ := buf
  match l, hl with
  | [_, _, _, _, _, _, _], _ => rfl

/-- Seven bytes from the first on fill the buffer and complete the header. -/
theorem feed_header {s : State} (hm : s.mode = .hdr) (hc : s.hp.cnt = 0) (b0 b1 b2 b3 b4 b5 b6 : Byte) :
    feed Config.rpd [b0, b1, b2, b3, b4, b5, b6] s = .next (headerComplete Config.rpd { s with
      hp := { cnt := 7, buf := #v[b0, b1, b2, b3, b4, b5, b6] } }) := by
  obtain ⟨mode, expect, ⟨cnt, buf⟩, pl, sd, xd, port, events, consumer⟩ := s
  simp only at hm hc
  subst hm hc
  simp [rxByte, headerByte_collect, headerByte_seventh, headerBuffer_overwritten]

/-! ## Reading the fields -/

/-- A field put above another by a shift and an OR (20_memory.md R52). -/
theorem or_shiftLeft_eq_join {n m w : Nat} (hi : BitVec n) (lo : BitVec m) :
    lo.zeroExtend w ||| (hi.zeroExtend w <<< m) = (join hi lo).zeroExtend w := by
  refine BitVec.eq_of_getElem_eq fun i hi' => ?_
  by_cases him : i < m
  · simp [join, BitVec.getLsbD_append, him]
  · simp [join, BitVec.getLsbD_append, him, BitVec.getLsbD_of_ge lo i (Nat.not_lt.1 him)]

/-- The length/mode word of an encoded descriptor is its mode above its length (R73, R150). -/
theorem lengthModeWord_fields (len : BitVec 30) (mode : BitVec 2) :
    lengthModeWord (len.extractLsb' 0 8) (len.extractLsb' 8 8) (len.extractLsb' 16 8)
      (join mode (len.extractLsb' 24 6)) = join mode len := by
  unfold lengthModeWord
  rw [or_shiftLeft_eq_join, or_shiftLeft_eq_join, or_shiftLeft_eq_join]
  refine BitVec.eq_of_toNat_eq ?_
  have hlen := len.isLt
  simp [Nat.shiftRight_eq_div_pow]
  omega

/-- The parser reads an encoded descriptor's fields back (R150 to R154). -/
theorem parseHeader_encodeRespDesc (c : Config) (len : BitVec 30) (mode : BitVec 2) (dtype : Byte) :
    parseHeader c (encodeRespDesc c len mode dtype) = .descriptor ⟨len, mode, dtype⟩ := by
  simp [parseHeader, encodeRespDesc, descriptorOf, lengthModeWord_fields]

/-! ## Going on with the session -/

theorem checkExpected_std (d : Descriptor) :
    checkExpected Config.rpd .std d = true ↔ d.len = 5 ∧ d.dtype = 0x81 := by
  simp [checkExpected, ← BitVec.toNat_inj]

theorem checkExpected_single (d : Descriptor) : checkExpected Config.rpd .single d = true := rfl

theorem checkExpected_exp (d : Descriptor) :
    checkExpected Config.rpd .exp d = true ↔ d.len = 84 ∧ d.dtype = 0x82 := by
  simp [checkExpected, ← BitVec.toNat_inj]

/-- Once the header is complete, a session that reports an event and ends does so without Truncated (R111). -/
theorem abortSession_emit_headerFull {s : State} (hm : s.mode = .hdr) (hc : s.hp.cnt = 7) (e : Event) (r : EndReason) :
    abortSession Config.rpd r (s.emit e) = { s with mode := .idle, events := s.events ++ [e, .sessionEnd r] } := by
  have hc' : (s.emit e).hp.cnt.toNat = 7 := by rw [State.emit_hp, hc]; rfl
  rw [abortSession_eq, abortEvents_full (s := s.emit e) hm hc']
  simp

/-- A descriptor is reported, and then the expectation decides (R156, R157). -/
theorem headerComplete_of_descriptor {s : State} {d : Descriptor}
    (hp : parseHeader Config.rpd s.hp.buf.toList = .descriptor d) :
    headerComplete Config.rpd s =
      if checkExpected Config.rpd s.expect d then
        routeDescriptor Config.rpd d (s.emit (.descriptor d.len d.mode d.dtype))
      else
        raiseFatal Config.rpd (.unexpectedResponse d.len d.dtype s.expect) .fatal
          (s.emit (.descriptor d.len d.mode d.dtype)) := by
  simp only [headerComplete, hp]

theorem routeDescriptor_std {s : State} (he : s.expect = .std) (d : Descriptor) :
    routeDescriptor Config.rpd d s = { s with mode := .std } := by
  simp only [routeDescriptor, he]

theorem routeDescriptor_exp {s : State} (he : s.expect = .exp) (d : Descriptor) :
    routeDescriptor Config.rpd d s = { s with mode := .exp } := by
  simp only [routeDescriptor, he]

theorem routeDescriptor_payload {s : State} (he : s.expect = .single) {d : Descriptor} (hlen : d.len ≠ 0) :
    routeDescriptor Config.rpd d s = { s with mode := .payload, pl := { len := d.len, idx := 0 } } := by
  simp only [routeDescriptor, he, hlen, if_false]

/-- A response without payload ends its session at once (R156). -/
theorem routeDescriptor_empty {s : State} (hm : s.mode = .hdr) (hc : s.hp.cnt = 7) (he : s.expect = .single)
    {d : Descriptor} (hlen : d.len = 0) :
    routeDescriptor Config.rpd d s = { s with
      mode := .idle, pl := { len := 0, idx := 0 }, events := s.events ++ [.payloadEnd 0, .sessionEnd .complete] } := by
  rw [← abortSession_emit_headerFull (s := { s with pl := { len := 0, idx := 0 } }) hm hc]
  simp only [routeDescriptor, he, hlen, if_true]

/-! ## The whole descriptor -/

/-- `s` with a whole descriptor in its buffer (R155) and reported (R156). -/
def State.withDescriptor (len : BitVec 30) (mode : BitVec 2) (dtype : Byte) (s : State) : State :=
  { s with
    hp := { cnt := 7
            buf := #v[0xA5, 0x5A, len.extractLsb' 0 8, len.extractLsb' 8 8, len.extractLsb' 16 8,
              join mode (len.extractLsb' 24 6), dtype] }
    events := s.events ++ [.descriptor len mode dtype] }

/-- A descriptor from its first byte on fills the buffer, is reported, and is then routed or ends the session. -/
theorem exec_respDesc {s : State} (hm : s.mode = .hdr) (hc : s.hp.cnt = 0) (len : BitVec 30) (mode : BitVec 2)
    (dtype : Byte) :
    exec (.respDesc len mode dtype) s = .next (
      if checkExpected Config.rpd s.expect ⟨len, mode, dtype⟩ then
        routeDescriptor Config.rpd ⟨len, mode, dtype⟩ (s.withDescriptor len mode dtype)
      else
        raiseFatal Config.rpd (.unexpectedResponse len dtype s.expect) .fatal (s.withDescriptor len mode dtype)) :=
  (feed_header hm hc ..).trans
    (congrArg _ (headerComplete_of_descriptor (parseHeader_encodeRespDesc Config.rpd len mode dtype)))

/-- Settles O24: the seven bytes report the descriptor, and the expectation decides where the session goes. -/
theorem respDescOpensTheResponse : Obligations.RespDescOpensTheResponse := by
  intro s t len mode dtype hm hc ht
  have htm : t.mode = .hdr := by rw [ht, hm]
  have htc : t.hp.cnt = 7 := by rw [ht]
  have hte : t.expect = s.expect := by rw [ht]
  have hdesc : s.withDescriptor len mode dtype = t := ht.symm
  rw [exec_respDesc hm hc, hdesc]
  refine ⟨fun he hlen htype => ?_, fun he hlen htype => ?_, fun he hlen => ?_, fun he hlen => ?_, fun h => ?_⟩
  · rw [he, if_pos ((checkExpected_std _).2 ⟨hlen, htype⟩), routeDescriptor_std (hte.trans he)]
  · rw [he, if_pos ((checkExpected_exp _).2 ⟨hlen, htype⟩), routeDescriptor_exp (hte.trans he)]
  · rw [he, if_pos (checkExpected_single _), routeDescriptor_payload (hte.trans he) hlen]
  · rw [he, if_pos (checkExpected_single _), routeDescriptor_empty htm htc (hte.trans he) hlen]
  · rw [if_neg, raiseFatal, abortSession_emit_headerFull htm htc]
    obtain ⟨he, h⟩ | ⟨he, h⟩ := h
    · rwa [he, checkExpected_std]
    · rwa [he, checkExpected_exp]

end Sys2Proof.Machine
end

section
/-! PROOF. A stream of inbound bytes (40_host_interface.md R108, R112): how it is cut does not matter, and what a stream
leaves unchanged by the MODE it begins in. -/

namespace Sys2Proof.Machine

/-! ## Chunks -/

/-- Feeding nothing goes on with whatever came before, a fault included. -/
theorem andThen_feed_nil (c : Config) (r : Result) : andThen r (feed c []) = r := by
  cases r <;> rfl

/-- `feed_append` over any number of pieces, and after any result. -/
theorem foldl_feed_eq_feed_flatten (c : Config) (chunks : List (List Byte)) (r : Result) :
    chunks.foldl (fun r chunk => andThen r (feed c chunk)) r = andThen r (feed c chunks.flatten) := by
  induction chunks generalizing r with
  | nil => exact (andThen_feed_nil c r).symm
  | cons chunk chunks ih =>
    calc (chunk :: chunks).foldl (fun r chunk => andThen r (feed c chunk)) r
      _ = andThen (andThen r (feed c chunk)) (feed c chunks.flatten) := ih _
      _ = andThen r (fun s => andThen (feed c chunk s) (feed c chunks.flatten)) := andThen_assoc ..
      _ = andThen r (feed c (chunk :: chunks).flatten) :=
        congrArg (andThen r) (funext fun s => (feed_append c chunk chunks.flatten s).symm)

/-- Settles O43: the chunks one after another are their concatenation, from a next state as after any other result. -/
theorem chunkingDoesNotMatter : Obligations.ChunkingDoesNotMatter := fun chunks s =>
  foldl_feed_eq_feed_flatten Config.rpd chunks (.next s)

/-! ## Frames by MODE -/

/-- In IDLE a byte is discarded (R108). -/
theorem rxByte_idle {s : State} (hm : s.mode = .idle) (c : Config) (b : Byte) : rxByte c b s = .next s := by
  simp only [rxByte, hm]

/-- No byte ends IDLE, so all bytes are discarded there. -/
theorem feed_idle {s : State} (hm : s.mode = .idle) (c : Config) (bs : List Byte) : feed c bs s = .next s := by
  induction bs with
  | nil => rfl
  | cons b bs ih => rw [feed_cons, rxByte_idle hm, andThen_next, ih]

/-- A standard stream stays in STD and changes that decoder's registers and the events (R170 to R175). -/
theorem feed_std_frame {c : Config} {bs : List Byte} {s t : State} (hm : s.mode = .std) (h : feed c bs s = .next t) :
    t = { s with sd := t.sd, events := t.events } := by
  refine feed_induction (P := fun u => u = { s with sd := u.sd, events := u.events }) ?_ bs s t rfl h
  intro b u v hu hv
  have hum : u.mode = .std := by rw [hu, hm]
  obtain ⟨-, -, hstd, -⟩ := rxByte_eq c b u
  rw [stdByte_frame ((hstd hum).symm.trans hv), hu]

/-- An express stream stays in EXP and changes that decoder's registers and the events (R190 to R200). -/
theorem feed_exp_frame {c : Config} {bs : List Byte} {s t : State} (hm : s.mode = .exp) (h : feed c bs s = .next t) :
    t = { s with xd := t.xd, events := t.events } := by
  refine feed_induction (P := fun u => u = { s with xd := u.xd, events := u.events }) ?_ bs s t rfl h
  intro b u v hu hv
  have hum : u.mode = .exp := by rw [hu, hm]
  obtain ⟨-, -, -, hexp⟩ := rxByte_eq c b u
  rw [expByte_frame ((hexp hum).symm.trans hv), hu]

/-- No bytes write `EXPECT`: START does (R23, R105). -/
theorem feed_expect {bs : List Byte} {s t : State} (h : feed Config.rpd bs s = .next t) : t.expect = s.expect :=
  feed_relation (R := fun s t => t.expect = s.expect) (fun _ => rfl)
    (fun _ _ _ _ hr hb => (rxByte_frame hb).1.trans hr) bs s t h

/-- Settles O52: the fields no byte touches, and then the whole frame of each MODE a stream does not leave. -/
theorem inboundBytesFrame : Obligations.InboundBytesFrame := by
  intro s t bs h
  obtain ⟨hport, hconsumer⟩ := feed_surroundings h
  refine ⟨feed_expect h, hport, hconsumer, feed_events h, fun hm => ?_, fun hm => feed_std_frame hm h,
    fun hm => feed_exp_frame hm h⟩
  rw [feed_idle hm] at h
  cases h
  rfl

/-- Settles O26: RX is the dispatch on MODE. -/
theorem byteGoesWhereModeSays : Obligations.ByteGoesWhereModeSays := fun s b =>
  ⟨fun hm => rxByte_idle hm Config.rpd b, rxByte_eq Config.rpd b s⟩

end Sys2Proof.Machine
end

section
/-! PROOF. Host operations that are Refused (40_host_interface.md R102, 30_encoding.md R79): a reserved word, and
ENCODE's payload beyond `MAX_PAYLOAD`. -/

namespace Sys2Proof.Machine

/-- Each of R102's cases about the word alone refuses it, under one name or another (log 19). -/
theorem exists_hostWordRefusal {w : HostWord}
    (h : 6 ≤ (hostTag w).toNat ∨ hostZero w ≠ 0 ∨ (hostTag w ≠ 1 ∧ hostArg w ≠ 0) ∨ (hostTag w = 1 ∧ hostArg w = 3)
      ∨ (hostTag w ≠ 3 ∧ hostTag w ≠ 4 ∧ hostData w ≠ 0)) :
    ∃ why, hostWordRefusal w = some why := by
  rw [← Option.ne_none_iff_exists', Ne, hostWordRefusal_eq_none]
  rintro ⟨htag, hzero, harg, hstart, hdata⟩
  rcases h with h | h | ⟨h, ha⟩ | ⟨h, ha⟩ | ⟨h3, h4, hd⟩
  · exact absurd htag (Nat.not_lt.2 h)
  · exact h hzero
  · exact ha (harg h)
  · exact hstart h ha
  · exact hd (hdata h3 h4)

/-- HOST_OP_RESERVED is Refused under its word's case of R102. -/
theorem exec_hostOpReserved {w : HostWord} {why : HostOpRefusal} (h : hostWordRefusal w = some why) (p : List Byte)
    (s : State) : exec (.hostOpReserved w p) s = .refused (.hostOp why) := by
  simp only [exec, execHostOpReserved, h]

/-- A step that meets a refused word stops, whatever list stands beside it. -/
theorem step_of_hostWordRefusal {s : State} {w : HostWord} {p : List Byte} {rest : List Transaction}
    {why : HostOpRefusal} (hp : s.port = .hostOp w p :: rest) (h : hostWordRefusal w = some why) :
    step s = .refused (.hostOp why) := by
  rw [step_of_decode_ok hp (decodeHostOp_of_refused h Config.rpd p), exec_hostOpReserved h, andThen_refused]

/-- R102's last case, as the configuration's bound says it. -/
theorem payloadFits_eq_false {c : Config} {n : Nat} {p : List Byte} (hc : c.maxPayload = some n) (hp : n < p.length) :
    payloadFits c p = false := by
  simp [payloadFits, hc, hp]

/-- Settles O4: a refused word decodes to HOST_OP_RESERVED, whose meaning is the refusal; a payload too long fails the
bound that both the decoder and `sendFrame` ask for. -/
theorem refusedHostOperationsStop : Obligations.RefusedHostOperationsStop := by
  refine ⟨fun s w p rest hp h => ?_, fun c n op p s hc hp => ⟨?_, ?_⟩⟩
  · obtain ⟨why, hwhy⟩ := exists_hostWordRefusal h
    exact ⟨why, step_of_hostWordRefusal hp hwhy⟩
  · simp only [decode, decodeHostOp_encodeWord, payloadFits_eq_false hc hp, Bool.false_eq_true, if_false]
  · simp only [sendFrame, payloadFits_eq_false hc hp, Bool.false_eq_true, if_false]

/-- Settles O5: the words of the row are those R102 refuses, by `reservedHostWord_eq`. -/
theorem hostOpReservedIsRefused : Obligations.HostOpReservedIsRefused := by
  intro s w p hwf
  obtain ⟨why, hwhy⟩ := Option.isSome_iff_exists.1 ((reservedHostWord_eq w).symm.trans hwf)
  exact ⟨why, exec_hostOpReserved hwhy p s⟩

end Sys2Proof.Machine
end

section
/-! PROOF. Ending and starting a session (40_host_interface.md R105 to R107, R110, R111). -/

namespace Sys2Proof.Machine

/-! ## AbortSession by MODE -/

/-- Without a session there is none to end (R111). -/
theorem abortSession_idle {s : State} (hm : s.mode = .idle) (c : Config) (r : EndReason) : abortSession c r s = s := by
  rw [abortSession_eq, abortEvents_idle hm, List.append_nil, ← hm]

/-- A descriptor cut short is reported with the bytes it had (R111, R159). -/
theorem abortEvents_partHeader {s : State} (hm : s.mode = .hdr) (hc : s.hp.cnt.toNat < 7) (r : EndReason) :
    abortEvents Config.rpd r s = [.truncated .hdr (s.hp.cnt.zeroExtend 30), .sessionEnd r] := by
  simp [abortEvents, hm, hc]

/-- A payload cut short is reported with the bytes it had (R111). -/
theorem abortEvents_partPayload {c : Config} {r : EndReason} {s : State} (hm : s.mode = .payload) (hr : r ≠ .complete) :
    abortEvents c r s = [.truncated .payload s.pl.idx, .sessionEnd r] := by
  simp [abortEvents, hm, hr]

/-- A payload that is complete is not cut short (R111). -/
theorem abortEvents_wholePayload {s : State} (hm : s.mode = .payload) (c : Config) :
    abortEvents c .complete s = [.sessionEnd .complete] := by
  simp [abortEvents, hm]

/-- A stream's partial data goes without report (R111). -/
theorem abortEvents_stream {s : State} (hm : s.mode = .std ∨ s.mode = .exp) (c : Config) (r : EndReason) :
    abortEvents c r s = [.sessionEnd r] := by
  rcases hm with hm | hm <;> simp [abortEvents, hm]

/-- Settles O8: `AbortSession` is its events and MODE, and the events are as the lemmas above say for each MODE. -/
theorem abortSessionByMode : Obligations.AbortSessionByMode := by
  intro s r
  simp only [abortSession_eq Config.rpd r s]
  refine ⟨fun hm => abortSession_idle hm Config.rpd r, fun hm hc => ?_, fun hm hc => ?_, fun hm hr => ?_,
    fun hm hr => ?_, fun hm => ?_⟩
  · rw [abortEvents_partHeader hm hc]
  · rw [abortEvents_full hm hc]
  · rw [abortEvents_partPayload hm hr]
  · rw [hr, abortEvents_wholePayload hm]
  · rw [abortEvents_stream hm]

/-! ## The session operations -/

/-- Settles O9: STOP does nothing else than end the session. -/
theorem stopEndsTheSession : Obligations.StopEndsTheSession := fun _ =>
  ⟨rfl, fun hm => congrArg Host.Outcome.next (abortSession_idle hm Config.rpd .stop)⟩

/-- Settles O12: XFAIL is a fatal error, that is its event and then `AbortSession`, which does nothing in IDLE. -/
theorem xfailReportsAndEndsTheSession : Obligations.XfailReportsAndEndsTheSession := fun s =>
  ⟨rfl, fun hm =>
    congrArg Host.Outcome.next (abortSession_idle (s := s.emit .transportFailure) hm Config.rpd .xfail)⟩

/-- The header registers' reset value, written out (R35). -/
theorem HeaderRegs.zero_eq : HeaderRegs.zero = { cnt := 0, buf := #v[0, 0, 0, 0, 0, 0, 0] } := rfl

/-- The express registers' reset value, written out (R35). -/
theorem ExpRegs.zero_eq : ExpRegs.zero =
    { ph := .hunt0, pos := 0, disc := 0, epi := false, los := false, refLo := 0, ref := 0, prev := 0
      pvalid := false, cab := #v[0, 0, 0, 0]
      cur := Vector.replicate 32 { dist := 0, sgn := false, mag := 0 }
      pend := Vector.replicate 32 { dist := 0, sgn := false, mag := 0 } } := rfl

/-- Settles O10: the power-on values do not depend on what the registers held, and they are those of R35. -/
theorem resetGivesPowerOnValues : Obligations.ResetGivesPowerOnValues := by
  intro s
  rw [← HeaderRegs.zero_eq, ← ExpRegs.zero_eq]
  rfl

/-- Settles O11: START's reserved argument is a case of R102; any other START writes every register as RESET does, opens
the session with its expectation, and announces it last. -/
theorem startGivesSessionStartValues : Obligations.StartGivesSessionStartValues := by
  refine ⟨fun s p => exec_hostOpReserved (by decide) p s, fun s e => ?_⟩
  rw [← HeaderRegs.zero_eq, ← ExpRegs.zero_eq]
  rfl

end Sys2Proof.Machine
end

section
/-! PROOF. Command frames as they are sent (41_command_encoder.md R130 to R143): what a frame's bytes are, that its
checksum clears the fold, and what each command sends. -/

namespace Sys2Proof.Machine

/-! ## The bytes of a frame -/

/-- The checksum clears the fold of the bytes before it, whatever they are. -/
theorem xorFold_append_checksum (bs : List Byte) : xorFold (bs ++ [xorFold bs]) = 0 := by
  simp [xorFold_append, xorFold]

/-- Settles O15: a frame is its bytes and their checksum. -/
theorem frameXorIsZero : Obligations.FrameXorIsZero := fun _ _ _ => xorFold_append_checksum _

/-- Sync byte, opcode and checksum stand beside the payload (R130). -/
theorem length_commandFrame (c : Config) (op : Byte) (p : List Byte) : (commandFrame c op p).length = p.length + 3 := by
  simp [commandFrame]

/-- The motor command's frame: sync byte and opcode give the checksum its 0x55 (R138). -/
theorem commandFrame_setMotorPwm (lo hi : Byte) :
    commandFrame Config.rpd 0xF0 [lo, hi] = [0xA5, 0xF0, lo, hi, 0x55 ^^^ lo ^^^ hi] := by
  have hsum : xorFold [0xA5, 0xF0, lo, hi] = 0x55 ^^^ lo ^^^ hi :=
    calc xorFold [0xA5, 0xF0, lo, hi]
      _ = xorFold [0xA5, 0xF0] ^^^ xorFold [lo, hi] := xorFold_append [0xA5, 0xF0] [lo, hi]
      _ = 0x55 ^^^ (lo ^^^ hi) := by simp [xorFold]
      _ = 0x55 ^^^ lo ^^^ hi := (BitVec.xor_assoc ..).symm
  rw [← hsum]
  rfl

/-! ## Sending it -/

/-- Settles O14: ENCODE sends the frame of R130 in every MODE. -/
theorem encodeEmitsTheFrame : Obligations.EncodeEmitsTheFrame := fun s op p => sendFrame_rpd op p s

/-- A command sends the frame of its opcode and payload and changes nothing else (R133 to R141). -/
theorem exec_sends_frame {i : Instr} {op : Byte} {p : List Byte} (h : i.commandParts = some (op, p)) (s : State) :
    exec i s = .next { s with events := s.events ++ [.txFrame (commandFrame Config.rpd op p)] } := by
  rw [exec_of_commandParts h, sendFrame_rpd]
  rfl

/-- Settles O16: each command sends its row's frame, whose bytes are constants but for the motor command's value. -/
theorem commandsEmitTheirTableFrames : Obligations.CommandsEmitTheirTableFrames := by
  refine ⟨fun s => ⟨exec_sends_frame NamedCommand.getInfo.commandParts s,
    exec_sends_frame NamedCommand.getHealth.commandParts s, exec_sends_frame NamedCommand.getSampleRate.commandParts s,
    exec_sends_frame NamedCommand.scan.commandParts s, exec_sends_frame NamedCommand.expressScan.commandParts s,
    exec_sends_frame NamedCommand.stopScan.commandParts s, exec_sends_frame NamedCommand.resetDev.commandParts s,
    fun lo hi => ?_⟩, by decide⟩
  rw [exec_sends_frame (NamedCommand.setMotorPwm lo hi).commandParts, commandFrame_setMotorPwm]

/-- Settles O17: ENCODE_ANY sends the frame of its own opcode and payload. -/
theorem unlistedCommandsAreFramed : Obligations.UnlistedCommandsAreFramed := fun s op p =>
  ⟨exec_sends_frame rfl s, length_commandFrame Config.rpd op p⟩

/-! ## The response it expects -/

/-- Settles O19: the conditions of `expectedResponse`, tried in the same order, are the table's lists of opcodes. -/
theorem expectedResponseTable : Obligations.ExpectedResponseTable := by
  intro op
  simp only [expectedResponse, List.mem_cons, List.not_mem_nil, or_false]

end Sys2Proof.Machine
end

section
/-! PROOF. The response header and the single response's payload, byte by byte (42_response_header.md R150 to R164). -/

namespace Sys2Proof.Machine

/-! ## Little-endian numbers -/

/-- The length/mode word is the little-endian number of its bytes (R150, D6). -/
theorem lengthModeWord_toNat (b2 b3 b4 b5 : Byte) :
    (lengthModeWord b2 b3 b4 b5).toNat
      = b2.toNat + 2 ^ 8 * b3.toNat + 2 ^ 16 * b4.toNat + 2 ^ 24 * b5.toNat := by
  unfold lengthModeWord
  rw [or_shiftLeft_eq_join, or_shiftLeft_eq_join, or_shiftLeft_eq_join]
  simp only [join_toNat, BitVec.truncate_eq_setWidth, BitVec.toNat_setWidth]
  omega

theorem littleEndian16_toNat (lo hi : Byte) : (littleEndian16 lo hi).toNat = lo.toNat + 256 * hi.toNat := by
  unfold littleEndian16
  rw [or_shiftLeft_eq_join]
  simp only [join_toNat, BitVec.truncate_eq_setWidth, BitVec.toNat_setWidth]
  omega

/-! ## ParseHeader and CheckExpected -/

/-- The length comes before the sync pair: too few bytes are Truncated whatever they are (R150). -/
theorem parseHeader_of_length_lt (c : Config) {buf : List Byte} (h : buf.length < 7) :
    parseHeader c buf = .truncated := by
  unfold parseHeader
  split
  · simp only [List.length_cons] at h
    omega
  · rfl

/-- The fields of a descriptor as numbers: 30 bits of length below 2 bits of mode (R152, R153). -/
theorem descriptorOf_toNat (b2 b3 b4 b5 b6 : Byte) :
    (descriptorOf b2 b3 b4 b5 b6).len.toNat
        = b2.toNat + 2 ^ 8 * b3.toNat + 2 ^ 16 * b4.toNat + 2 ^ 24 * (b5.toNat % 64)
      ∧ (descriptorOf b2 b3 b4 b5 b6).mode.toNat = b5.toNat / 64 := by
  simp only [descriptorOf, field_toNat, lengthModeWord_toNat]
  omega

/-- Settles O20: too few bytes first, then the sync pair, then the fields as parts of the length/mode word. -/
theorem parseHeaderFields : Obligations.ParseHeaderFields := by
  refine ⟨fun c _ h => parseHeader_of_length_lt c h, fun b0 b1 b2 b3 b4 b5 b6 more => ⟨fun hsync => if_pos hsync, ?_⟩⟩
  rintro ⟨rfl, rfl⟩
  obtain ⟨hlen, hmode⟩ := descriptorOf_toNat b2 b3 b4 b5 b6
  exact ⟨descriptorOf b2 b3 b4 b5 b6, rfl, hlen, hmode, rfl⟩

/-- Settles O21: `checkExpected_std` and `checkExpected_exp`, with the length as the number it is. -/
theorem expectationCheck : Obligations.ExpectationCheck := fun d =>
  ⟨(checkExpected_std d).trans (and_congr_left' BitVec.toNat_inj.symm),
    (checkExpected_exp d).trans (and_congr_left' BitVec.toNat_inj.symm), checkExpected_single d⟩

/-! ## A descriptor byte -/

/-- Settles O22: in HDR the byte goes to the header's unit, which collects it or completes the header. -/
theorem headerByteIsCollected : Obligations.HeaderByteIsCollected := by
  intro s b hm
  have hrx : exec (.rx b) s = headerByte Config.rpd b s := (rxByte_eq Config.rpd b s).1 hm
  exact ⟨fun hc => hrx.trans (headerByte_collect hc b), fun hc => hrx.trans (headerByte_seventh hc b)⟩

/-- A complete header with a wrong sync pair ends the session (R156). -/
theorem headerComplete_of_invalidSync {s : State} (hm : s.mode = .hdr) (hc : s.hp.cnt = 7)
    (hp : parseHeader Config.rpd s.hp.buf.toList = .invalidSync) :
    headerComplete Config.rpd s = { s with
      mode := .idle, events := s.events ++ [.invalidSync .hdr, .sessionEnd .fatal] } := by
  simp only [headerComplete, hp]
  exact abortSession_emit_headerFull hm hc _ _

/-- A descriptor that fails its check is reported before the session ends (R156). -/
theorem headerComplete_of_unexpected {s : State} {d : Descriptor} (hm : s.mode = .hdr) (hc : s.hp.cnt = 7)
    (hp : parseHeader Config.rpd s.hp.buf.toList = .descriptor d) (hd : checkExpected Config.rpd s.expect d = false) :
    headerComplete Config.rpd s = { s with
      mode := .idle
      events := s.events ++ [.descriptor d.len d.mode d.dtype, .unexpectedResponse d.len d.dtype s.expect,
        .sessionEnd .fatal] } := by
  rw [headerComplete_of_descriptor hp, if_neg (Bool.eq_false_iff.1 hd), raiseFatal,
    abortSession_emit_headerFull (s := s.emit _) hm hc]
  simp

/-- A descriptor that meets its check is reported and then routed (R156). -/
theorem headerComplete_of_expected {s : State} {d : Descriptor}
    (hp : parseHeader Config.rpd s.hp.buf.toList = .descriptor d) (hd : checkExpected Config.rpd s.expect d = true) :
    headerComplete Config.rpd s = routeDescriptor Config.rpd d (s.emit (.descriptor d.len d.mode d.dtype)) := by
  rw [headerComplete_of_descriptor hp, if_pos hd]

/-- Settles O23: the byte completes the header; the parse, the check and the expectation choose among the outcomes. -/
theorem headerCompletesAtTheSeventhByte : Obligations.HeaderCompletesAtTheSeventhByte := by
  intro s t b hm hc ht
  have hrx : exec (.rx b) s = .next (headerComplete Config.rpd t) := ht ▸ (headerByteIsCollected s b hm).2 hc
  have htm : t.mode = .hdr := by rw [ht, hm]
  have htc : t.hp.cnt = 7 := by rw [ht]
  have hexpect : s.expect = t.expect := by rw [ht]
  have hevents : s.events = t.events := by rw [ht]
  rw [hrx, hexpect, hevents]
  refine ⟨fun hp => ?_, fun d hp => ⟨fun hd => ?_, fun hd => ?_⟩⟩
  · rw [headerComplete_of_invalidSync htm htc hp]
  · rw [headerComplete_of_unexpected htm htc hp hd]
  · rw [headerComplete_of_expected hp hd]
    refine ⟨fun he => ?_, fun he => ?_, fun he hlen => ?_, fun he hlen => ?_⟩
    · exact congrArg _ (routeDescriptor_std (s := t.emit _) he d)
    · exact congrArg _ (routeDescriptor_exp (s := t.emit _) he d)
    · exact congrArg _ (routeDescriptor_payload (s := t.emit _) he hlen)
    · rw [routeDescriptor_empty (s := t.emit _) htm htc he hlen]
      simp

/-! ## A payload byte -/

/-- An index that has a successor does not fault (R26, log 8). -/
theorem payloadByte_answers {s : State} (hi : s.pl.idx.toNat + 1 < 2 ^ 30) (c : Config) (b : Byte) :
    ∃ t, payloadByte c b s = .next t := by
  have hne : s.pl.idx ≠ BitVec.allOnes 30 := fun e => by simp [e] at hi
  simp only [payloadByte, hne, if_false]
  split <;> exact ⟨_, rfl⟩

/-- Settles O25: the byte is taken, so one of the two cases of `payloadByte_next` holds. -/
theorem payloadByteIsForwarded : Obligations.PayloadByteIsForwarded := by
  intro s b hm hi
  have hrx : exec (.rx b) s = payloadByte Config.rpd b s := (rxByte_eq Config.rpd b s).2.1 hm
  obtain ⟨t, ht⟩ := payloadByte_answers hi Config.rpd b
  rw [hrx, ht]
  obtain ⟨-, ⟨hmore, rfl⟩ | ⟨hlast, rfl⟩⟩ := payloadByte_next hm ht
  · exact ⟨fun _ => rfl, fun hlast => absurd hlast hmore⟩
  · exact ⟨fun hmore => absurd hlast hmore, fun _ => rfl⟩

/-! ## The consumer's views -/

/-- Settles O60: every view names bytes of the payload or is the little-endian number of two of them. -/
theorem payloadViews : Obligations.PayloadViews := fun _ _ _ _ _ =>
  ⟨rfl, rfl, ⟨_, rfl, littleEndian16_toNat ..⟩, ⟨_, rfl, littleEndian16_toNat ..⟩, ⟨_, rfl, littleEndian16_toNat ..⟩,
    by decide⟩

end Sys2Proof.Machine
end

section
/-! PROOF. The standard scan (43_standard_scan.md R170 to R178, 30_encoding.md R74): what each offset's byte does, one
whole unit, and a stream of units. -/

namespace Sys2Proof.Machine

/-! ## The fields of a unit -/

/-- The quality is the field above the two flag bits (R74, R171). -/
theorem stdQuality_eq_extract (b : Byte) : stdQuality b = b.extractLsb' 2 6 := by
  refine BitVec.eq_of_toNat_eq ?_
  simp [stdQuality, Nat.shiftRight_eq_div_pow]

/-- The low angle bits are the field above the check bit (R74, R172). -/
theorem stdAngleLow_eq_extract (b : Byte) : stdAngleLow b = b.extractLsb' 1 7 := by
  refine BitVec.eq_of_toNat_eq ?_
  simp [stdAngleLow, Nat.shiftRight_eq_div_pow]

/-- The angle is its byte above the low bits (R173). -/
theorem stdAngle_eq_join (b : Byte) (alo : BitVec 7) : stdAngle b alo = join b alo := by
  rw [stdAngle, BitVec.or_comm, or_shiftLeft_eq_join]
  exact BitVec.setWidth_eq _

/-- The distance is its high byte above the low one (R175). -/
theorem stdDistance_eq_join (b dlo : Byte) : stdDistance b dlo = join b dlo := by
  rw [stdDistance, BitVec.or_comm, or_shiftLeft_eq_join]
  exact BitVec.setWidth_eq _

theorem stdAngle_toNat (b : Byte) (alo : BitVec 7) : (stdAngle b alo).toNat = b.toNat * 128 + alo.toNat := by
  simp only [stdAngle_eq_join, join_toNat, Nat.reducePow]

theorem stdDistance_toNat (b dlo : Byte) : (stdDistance b dlo).toNat = b.toNat * 256 + dlo.toNat := by
  simp only [stdDistance_eq_join, join_toNat, Nat.reducePow]

/-- The flag bits as numbers: equal ones are a check failure, else S = 1 is a boundary (R171). -/
theorem newScanEvents_eq (b : Byte) :
    newScanEvents b = if b.toNat % 2 = b.toNat / 2 % 2 then [.stdCheckFail b]
      else if b.toNat % 2 = 1 then [.boundary .std] else [] := by
  have hequal : b.getLsbD 0 = b.getLsbD 1 ↔ b.toNat % 2 = b.toNat / 2 % 2 := by
    rw [bit_eq_decide, bit_eq_decide, decide_eq_decide]
    omega
  have hset : b.getLsbD 0 = true ↔ b.toNat % 2 = 1 := by
    rw [bit_eq_decide, decide_eq_true_iff, pow_zero, Nat.div_one]
  simp only [newScanEvents, hequal, hset]

/-! ## One byte -/

/-- The byte at each offset of a unit is that offset's operation (R170). -/
theorem stdByte_eq (b : Byte) (s : State) :
    (s.sd.pos = 0 → stdByte b s = .next (stdByte0 b s)) ∧ (s.sd.pos = 1 → stdByte b s = .next (stdByte1 b s))
      ∧ (s.sd.pos = 2 → stdByte b s = .next (stdByte2 b s)) ∧ (s.sd.pos = 3 → stdByte b s = .next (stdByte3 b s))
      ∧ (s.sd.pos = 4 → stdByte b s = .next (stdByte4 b s)) := by
  refine ⟨?_, ?_, ?_, ?_, ?_⟩ <;> intro hp <;> simp [stdByte, hp]

/-- RX in STD is the standard decoder's byte (R108). -/
theorem exec_rx_std {s : State} (hm : s.mode = .std) (b : Byte) : exec (.rx b) s = stdByte b s :=
  (rxByte_eq Config.rpd b s).2.2.1 hm

/-- Settles O28: the byte is offset 0's, and the flag bits choose the event. -/
theorem stdOffsetZeroLatchesQualityAndFlag : Obligations.StdOffsetZeroLatchesQualityAndFlag := by
  rintro s t b hm hp rfl
  have hq : stdQuality b = BitVec.ofNat 6 (b.toNat / 4) := by
    simp only [stdQuality_eq_extract, BitVec.extractLsb', Nat.shiftRight_eq_div_pow, Nat.reducePow]
  rw [exec_rx_std hm, (stdByte_eq b s).1 hp, stdByte0, hq, newScanEvents_eq]
  refine ⟨fun h => ?_, fun h => ?_, fun h => ?_⟩
  · rw [if_pos h]; rfl
  · rw [if_neg (by omega), if_pos (by omega)]; rfl
  · rw [if_neg (by omega), if_neg (by omega), State.emits_nil]

/-- Settles O29: each offset's operation, with the field it assembles as the number it is. -/
theorem stdOffsetsAssembleTheSample : Obligations.StdOffsetsAssembleTheSample := by
  intro s b hm
  obtain ⟨-, h1, h2, h3, h4⟩ := stdByte_eq b s
  rw [exec_rx_std hm]
  refine ⟨fun hp => ?_, fun hp => ?_, h3, fun hp => ?_⟩
  · have halo : stdAngleLow b = BitVec.ofNat 7 (b.toNat / 2) := by
      rw [stdAngleLow_eq_extract, BitVec.extractLsb', Nat.shiftRight_eq_div_pow, pow_one]
    rw [h1 hp, stdByte1, halo]
  · rw [h2 hp, stdByte2, ← stdAngle_toNat, BitVec.ofNat_toNat, BitVec.setWidth_eq]
  · rw [h4 hp, stdByte4, stdUnitEvent, ← stdDistance_toNat, BitVec.ofNat_toNat, BitVec.setWidth_eq]
    rfl

/-- Every byte in range advances the offset by one, round the five of a unit, and MODE stays (R170, R176). -/
theorem stdByte_advances {s : State} (hp : s.sd.pos.toNat ≤ 4) (b : Byte) :
    ∃ t, stdByte b s = .next t ∧ t.mode = s.mode ∧ t.sd.pos.toNat = (s.sd.pos.toNat + 1) % 5 := by
  obtain ⟨h0, h1, h2, h3, h4⟩ := stdByte_eq b s
  have hcases : s.sd.pos = 0 ∨ s.sd.pos = 1 ∨ s.sd.pos = 2 ∨ s.sd.pos = 3 ∨ s.sd.pos = 4 := by
    bv_omega
  rcases hcases with hp | hp | hp | hp | hp
  · exact ⟨_, h0 hp, rfl, by simp [hp, stdByte0]⟩
  · exact ⟨_, h1 hp, rfl, by simp [hp, stdByte1]⟩
  · exact ⟨_, h2 hp, rfl, by simp [hp, stdByte2]⟩
  · exact ⟨_, h3 hp, rfl, by simp [hp, stdByte3]⟩
  · exact ⟨_, h4 hp, rfl, by simp [hp, stdByte4]⟩

/-- Settles O32, by induction on the bytes: each advances the offset, whatever it holds. -/
theorem stdOffsetIgnoresTheBytes : Obligations.StdOffsetIgnoresTheBytes := by
  intro s bs
  induction bs generalizing s with
  | nil => exact fun hm hp => ⟨s, rfl, hm, by simp; omega⟩
  | cons b bs ih =>
    intro hm hp
    obtain ⟨u, hu, hum, hup⟩ := stdByte_advances hp b
    obtain ⟨t, ht, htm, htp⟩ := ih u (hum.trans hm) (by omega)
    refine ⟨t, ?_, htm, ?_⟩
    · rw [feed_cons, (rxByte_eq Config.rpd b s).2.2.1 hm, hu, andThen_next, ht]
    · rw [htp, hup, List.length_cons]; omega

/-! ## One unit -/

/-- Five bytes from offset 0 on leave their fields in the registers and add the flag's event and the sample's. -/
theorem feed_fiveStdBytes {s : State} (hm : s.mode = .std) (hp : s.sd.pos = 0) (b0 b1 b2 b3 b4 : Byte) :
    feed Config.rpd [b0, b1, b2, b3, b4] s = .next { s with
      sd := { pos := 0, q := stdQuality b0, alo := stdAngleLow b1, ang := stdAngle b2 (stdAngleLow b1), dlo := b3 }
      events := s.events ++ newScanEvents b0
        ++ [stdUnitEvent (stdAngle b2 (stdAngleLow b1)) (stdDistance b4 b3) (stdQuality b0)] } := by
  obtain ⟨mode, expect, hpr, pl, ⟨pos, q, alo, ang, dlo⟩, xd, port, events, consumer⟩ := s
  simp only at hm hp
  subst hm hp
  rfl

/-- The first byte of a unit carries its flag bits (R74), and they choose the event. -/
theorem newScanEvents_stdByteZero (u : StdUnit) :
    newScanEvents (stdByteZero u)
      = if u.s = u.sbar then [.stdCheckFail (stdByteZero u)] else if u.s then [.boundary .std] else [] := by
  have hs : (stdByteZero u).getLsbD 0 = u.s := by simp [stdByteZero]
  have hsbar : (stdByteZero u).getLsbD 1 = u.sbar := by simp [stdByteZero]
  rw [newScanEvents, hs, hsbar]

/-- The zero distance is a zero return, any other a sample (R175). -/
theorem stdUnitEvent_eq (ang : BitVec 15) (d : BitVec 16) (q : BitVec 6) :
    stdUnitEvent ang d q = if d = 0 then .zeroReturn .std else .stdSample ang d q := by
  by_cases hd : d = 0
  · rw [hd]; rfl
  · have hpos : 0 < d.toNat := Nat.pos_of_ne_zero fun h => hd (BitVec.eq_of_toNat_eq h)
    rw [stdUnitEvent, if_pos hpos, if_neg hd]

/-- The bytes of a unit leave the unit's fields in the registers and add its events. -/
theorem feed_encodeStdUnit {s : State} (hm : s.mode = .std) (hp : s.sd.pos = 0) (u : StdUnit) :
    feed Config.rpd (encodeStdUnit u) s = .next { s with
      sd := { pos := 0, q := u.quality, alo := u.angle.extractLsb' 0 7, ang := u.angle, dlo := u.dist.extractLsb' 0 8 }
      events := s.events ++ stdUnitEvents u } := by
  have hq : stdQuality (stdByteZero u) = u.quality := by simp [stdQuality_eq_extract, stdByteZero]
  have halo : stdAngleLow (join (u.angle.extractLsb' 0 7) (flag u.chk)) = u.angle.extractLsb' 0 7 := by
    simp [stdAngleLow_eq_extract]
  have hang : stdAngle (u.angle.extractLsb' 7 8) (u.angle.extractLsb' 0 7) = u.angle := by simp [stdAngle_eq_join]
  have hdist : stdDistance (u.dist.extractLsb' 8 8) (u.dist.extractLsb' 0 8) = u.dist := by simp [stdDistance_eq_join]
  have hbytes := feed_fiveStdBytes hm hp (stdByteZero u) (join (u.angle.extractLsb' 0 7) (flag u.chk))
    (u.angle.extractLsb' 7 8) (u.dist.extractLsb' 0 8) (u.dist.extractLsb' 8 8)
  rw [hq, halo, hang, hdist, newScanEvents_stdByteZero, stdUnitEvent_eq, List.append_assoc] at hbytes
  exact hbytes

/-- Settles O30: STD_UNIT is its bytes. -/
theorem stdUnitIsDecoded : Obligations.StdUnitIsDecoded := fun _ u hm hp => feed_encodeStdUnit hm hp u

/-! ## A stream of units -/

/-- A unit reports one boundary if its flag is set and its complement is not, and else none (R177). -/
theorem count_boundary_stdUnitEvents (u : StdUnit) :
    (stdUnitEvents u).count (.boundary .std) = if u.s && !u.sbar then 1 else 0 := by
  have hsample : [if u.dist = 0 then Event.zeroReturn .std else .stdSample u.angle u.dist u.quality].count
      (.boundary .std) = 0 := by
    split <;> rfl
  rw [stdUnitEvents, List.count_append, hsample]
  cases u.s <;> cases u.sbar <;> rfl

/-- The boundaries of a stream are the units whose flag is set and whose complement is not (R177). -/
theorem count_boundary_flatMap_stdUnitEvents (us : List StdUnit) :
    (us.flatMap stdUnitEvents).count (.boundary .std) = us.countP (fun u => u.s && !u.sbar) := by
  induction us with
  | nil => rfl
  | cons u us ih =>
    rw [List.flatMap_cons, List.count_append, count_boundary_stdUnitEvents, ih, List.countP_cons, Nat.add_comm]

/-- Settles O31, by induction on the units: each ends at offset 0, where the next begins. -/
theorem stdStreamIsDecoded : Obligations.StdStreamIsDecoded := by
  intro s us
  induction us generalizing s with
  | nil => exact fun hm hp => ⟨s, rfl, by simp, hm, hp, rfl, rfl, rfl, rfl, rfl⟩
  | cons u us ih =>
    intro hm hp
    obtain ⟨t, ht, hevents, htm, htp, hxd, hhp, hpl, hexpect, -⟩ := ih { s with
      sd := { pos := 0, q := u.quality, alo := u.angle.extractLsb' 0 7, ang := u.angle, dlo := u.dist.extractLsb' 0 8 }
      events := s.events ++ stdUnitEvents u } hm rfl
    refine ⟨t, ?_, ?_, htm, htp, hxd, hhp, hpl, hexpect, count_boundary_flatMap_stdUnitEvents _⟩
    · rw [List.flatMap_cons, feed_append, feed_encodeStdUnit hm hp, andThen_next, ht]
    · rw [hevents, List.flatMap_cons, List.append_assoc]

end Sys2Proof.Machine
end

section
/-! PROOF. The range of every sample (43_standard_scan.md R175, R178; 44_express_scan.md R194): what a byte, and then an
instruction, adds to the stream. -/

namespace Sys2Proof.Machine

/-- A sample has a distance above 0, and an express sample's angle is below a full turn (R178, R194, R104). -/
def Event.SampleInRange : Event → Prop
  | .stdSample _ d _ => 0 < d.toNat
  | .expSample a d => 0 < d.toNat ∧ a.toNat < 737280
  | _ => True

/-- The events from `s` to `t` hold only samples in range. -/
def AddsSamplesInRange (s t : State) : Prop := ∃ es, t.events = s.events ++ es ∧ ∀ e ∈ es, e.SampleInRange

/-! ## What emits samples -/

/-- The angle is reduced by a full turn (R194). -/
theorem angleQ11_lt (a : Int) : (angleQ11 Config.rpd a).toNat < 737280 := by
  simp only [angleQ11, Config.rpd_degQ11Full, BitVec.toNat_ofNat]
  omega

theorem pendingEvent_sampleInRange (prev ref : BitVec 15) (i : Nat) (p : Pair) :
    (pendingEvent Config.rpd prev ref i p).SampleInRange := by
  unfold pendingEvent
  split
  · exact ⟨by assumption, angleQ11_lt _⟩
  · trivial

theorem stdUnitEvent_sampleInRange (ang : BitVec 15) (d : BitVec 16) (q : BitVec 6) :
    (stdUnitEvent ang d q).SampleInRange := by
  unfold stdUnitEvent
  split
  · assumption
  · trivial

theorem Event.OfSession.sampleInRange {e : Event} (h : e.OfSession) : e.SampleInRange := by
  cases h <;> trivial

/-! ## What a byte and an instruction add -/

/-- Only a unit's last byte and a packet's reference angle report samples. -/
theorem RxEvents.sampleInRange {b : Byte} {s : State} {es : List Event} (h : RxEvents b s es) :
    ∀ e ∈ es, e.SampleInRange := by
  cases h with
  | stdFlag =>
    unfold newScanEvents
    split_ifs <;> simp [Event.SampleInRange]
  | stdUnit => exact List.forall_mem_singleton.2 (stdUnitEvent_sampleInRange ..)
  | search n =>
    unfold discardEvents
    split_ifs <;> simp [Event.SampleInRange]
  | reference =>
    refine List.forall_mem_append.2 ⟨?_, ?_⟩
    · split <;> simp [Event.SampleInRange]
    · split
      · exact List.forall_mem_map.2 fun _ _ => pendingEvent_sampleInRange ..
      · simp
  | _ => simp [Event.SampleInRange]

theorem AddsSamplesInRange.refl (s : State) : AddsSamplesInRange s s := ⟨[], by simp, by simp⟩

theorem AddsSamplesInRange.trans {s t u : State} (hst : AddsSamplesInRange s t) (htu : AddsSamplesInRange t u) :
    AddsSamplesInRange s u := by
  obtain ⟨es, he, hes⟩ := hst
  obtain ⟨fs, hf, hfs⟩ := htu
  exact ⟨es ++ fs, by rw [hf, he, List.append_assoc], List.forall_mem_append.2 ⟨hes, hfs⟩⟩

theorem AddsSamplesInRange.emit (s : State) {e : Event} (he : e.SampleInRange) : AddsSamplesInRange s (s.emit e) :=
  ⟨[e], rfl, List.forall_mem_singleton.2 he⟩

theorem AddsSamplesInRange.abort (r : EndReason) (s : State) : AddsSamplesInRange s (abortSession Config.rpd r s) :=
  ⟨_, rfl, fun e he => (abortEvents_ofSession _ _ _ e he).sampleInRange⟩

theorem rxByte_addsSamplesInRange {b : Byte} {s t : State} (h : rxByte Config.rpd b s = .next t) :
    AddsSamplesInRange s t := by
  obtain ⟨es, hes, he⟩ := rxByte_events h
  exact ⟨es, he, hes.sampleInRange⟩

/-- Every instruction's samples are in range, by its kind; those of fed bytes come one byte at a time. -/
theorem exec_addsSamplesInRange {i : Instr} {s t : State} (h : exec i s = .next t) : AddsSamplesInRange s t := by
  cases exec_next h with
  | sent frame => exact .emit s trivial
  | reset => exact AddsSamplesInRange.abort .reset s
  | started e =>
    exact (AddsSamplesInRange.abort .restart s).trans
      (.emit ((abortSession Config.rpd .restart s).sessionStart e) trivial)
  | stopped => exact .abort .stop s
  | failed => exact (AddsSamplesInRange.emit s (e := .transportFailure) trivial).trans (.abort .xfail _)
  | fed bs _ hb =>
    exact feed_relation AddsSamplesInRange.refl (fun _ _ _ _ hr hb => hr.trans (rxByte_addsSamplesInRange hb)) bs s t hb

/-- Settles O54: the events the instruction added are the only ones that make up the difference. -/
theorem emittedSamplesAreInRange : Obligations.EmittedSamplesAreInRange := by
  intro s t i es h he
  obtain ⟨fs, hf, hfs⟩ := exec_addsSamplesInRange h
  obtain rfl : fs = es := List.append_cancel_left (hf.symm.trans he)
  exact ⟨fun _ _ _ hmem => hfs _ hmem, fun _ _ hmem => hfs _ hmem⟩

end Sys2Proof.Machine
end

section
/-! PROOF. The express decoder's search (44_express_scan.md R191, R192): what a discard reports, that discards add up,
and what a byte does in each hunting phase. -/

namespace Sys2Proof.Machine

/-! ## Discarded bytes -/

/-- The saturated count is past the limit exactly when the full one is (R191). -/
theorem losLimit_lt_discardCount (n : Nat) (x : ExpRegs) :
    84 < discardCount Config.rpd n x ↔ 84 < x.disc.toNat + n := by
  simp only [discardCount, Config.rpd_losLimit]
  omega

theorem discardRegs_eq (n : Nat) (x : ExpRegs) :
    discardRegs Config.rpd n x = { x with
      epi := true
      disc := BitVec.ofNat 7 (min (x.disc.toNat + n) 85)
      los := x.los || decide (84 < x.disc.toNat + n) } := by
  simp only [discardRegs, Config.rpd_losLimit, losLimit_lt_discardCount]
  rfl

/-- Past the limit the count is at its ceiling (R191). -/
theorem discardRegs_disc_of_lost {n : Nat} {x : ExpRegs} (h : 84 < x.disc.toNat + n) :
    (discardRegs Config.rpd n x).disc = 85 :=
  BitVec.eq_of_toNat_eq ((discardRegs_disc_toNat n x).trans (Nat.min_eq_right h))

/-- A discard reports the start of an episode, and the loss of sync, whose count is then the saturated one (R191). -/
theorem discardEvents_eq (n : Nat) (x : ExpRegs) :
    discardEvents Config.rpd n x = (if x.epi = false then [.invalidSync .exp] else [])
      ++ (if 84 < x.disc.toNat + n ∧ x.los = false then [.lossOfSync 85] else []) := by
  have hlost (h : 84 < x.disc.toNat + n) : BitVec.ofNat 7 (discardCount Config.rpd n x) = 85 :=
    discardRegs_disc_of_lost h
  simp only [discardEvents, Config.rpd_losLimit, losLimit_lt_discardCount]
  congr 1
  · cases x.epi <;> rfl
  · exact ite_congr rfl (fun h => by rw [hlost h.1]) (fun _ => rfl)

/-- Settles O33: the registers and the events of a discard, each once. -/
theorem discardReportsOncePerEpisode : Obligations.DiscardReportsOncePerEpisode := by
  intro s n
  refine ⟨_, rfl, ?_, discardRegs_disc_toNat n s.xd, ?_, rfl⟩
  · simp only [discardBytes_xd, discardRegs_eq]
  · rw [discardBytes_events, discardBytes_xd, discardEvents_eq, List.append_assoc]
    congr 2
    exact ite_congr rfl (fun h => by rw [discardRegs_disc_of_lost h.1]) (fun _ => rfl)

/-- Discarding in two parts leaves the registers of discarding at once, since the count saturates. -/
theorem discardRegs_discardRegs (m n : Nat) (x : ExpRegs) :
    discardRegs Config.rpd n (discardRegs Config.rpd m x) = discardRegs Config.rpd (m + n) x := by
  have hcount : min (min (x.disc.toNat + m) 85 + n) 85 = min (x.disc.toNat + (m + n)) 85 := by omega
  have hlost : 84 < x.disc.toNat + m ∨ 84 < min (x.disc.toNat + m) 85 + n ↔ 84 < x.disc.toNat + (m + n) := by omega
  rw [discardRegs_eq n, discardRegs_disc_toNat, hcount, discardRegs_eq m, discardRegs_eq (m + n)]
  simp only [Bool.or_assoc, ← Bool.decide_or, hlost]

/-- What the first part of a discard reported the second does not report again. -/
theorem discardEvents_add (m n : Nat) (x : ExpRegs) :
    discardEvents Config.rpd (m + n) x
      = discardEvents Config.rpd m x ++ discardEvents Config.rpd n (discardRegs Config.rpd m x) := by
  have hopen : (discardRegs Config.rpd m x).epi = true := rfl
  have hlos : (discardRegs Config.rpd m x).los = (x.los || decide (84 < x.disc.toNat + m)) := by rw [discardRegs_eq]
  rw [discardEvents_eq n, discardRegs_disc_toNat, hopen, hlos, discardEvents_eq m, discardEvents_eq (m + n)]
  by_cases hm : 84 < x.disc.toNat + m
  · have hmn : 84 < x.disc.toNat + (m + n) := by omega
    simp [hm, hmn]
  · have hmn : 84 < min (x.disc.toNat + m) 85 + n ↔ 84 < x.disc.toNat + (m + n) := by omega
    simp [hm, hmn]

theorem discardBytes_discardBytes (m n : Nat) (s : State) :
    discardBytes Config.rpd n (discardBytes Config.rpd m s) = discardBytes Config.rpd (m + n) s := by
  simp only [discardBytes, State.emits, discardRegs_discardRegs, discardEvents_add, List.append_assoc]

/-! ## One byte of the search -/

/-- RX in EXP is the express decoder's byte (R108). -/
theorem rxByte_exp {s : State} (hm : s.mode = .exp) (c : Config) (b : Byte) : rxByte c b s = expByte c b s :=
  (rxByte_eq c b s).2.2.2 hm

/-- A byte of an express stream, and then the others. -/
theorem feed_cons_exp {c : Config} {b : Byte} {s t : State} (hm : s.mode = .exp) (h : expByte c b s = .next t)
    (bs : List Byte) : feed c (b :: bs) s = feed c bs t := by
  rw [feed_cons, rxByte_exp hm, h, andThen_next]

/-- The high nibble as the quotient it is (R192). -/
theorem highNibble_eq_iff (b : Byte) (n : BitVec 4) : highNibble b = n ↔ b.toNat / 16 = n.toNat := by
  have hb := b.isLt
  simp only [highNibble, ← BitVec.toNat_inj, field_toNat, Nat.reducePow]
  omega

/-- The hunting phases take every byte (R190). -/
theorem expByte_hunt (c : Config) (b : Byte) (s : State) :
    (s.xd.ph = .hunt0 → expByte c b s = .next (hunt0 c b s))
      ∧ (s.xd.ph = .hunt1 → expByte c b s = .next (hunt1 c b s)) := by
  constructor <;> intro hph <;> simp only [expByte, hph]

/-- The first marker goes on to look for the second (R192). -/
theorem hunt0_marker {b : Byte} (hb : highNibble b = 0xA) (s : State) :
    hunt0 Config.rpd b s = s.setPhase .hunt1 := if_pos hb

theorem hunt0_other {b : Byte} (hb : highNibble b ≠ 0xA) (s : State) :
    hunt0 Config.rpd b s = discardBytes Config.rpd 1 s := if_neg hb

/-- The second marker acquires sync (R192). -/
theorem hunt1_marker {b : Byte} (hb : highNibble b = 0x5) (s : State) :
    hunt1 Config.rpd b s = { s with xd := acquireSync s.xd } := if_pos hb

/-- A first marker in the second's place may yet be followed by the second (D16). -/
theorem hunt1_firstMarker {b : Byte} (hb : highNibble b = 0xA) (s : State) :
    hunt1 Config.rpd b s = discardBytes Config.rpd 1 s :=
  (if_neg (by rw [hb]; decide)).trans (if_pos hb)

theorem hunt1_other {b : Byte} (h5 : highNibble b ≠ 0x5) (hA : highNibble b ≠ 0xA) (s : State) :
    hunt1 Config.rpd b s = (discardBytes Config.rpd 2 s).setPhase .hunt0 :=
  (if_neg h5).trans (if_neg hA)

/-- Settles O34: the byte goes to its phase, and its high nibble decides. -/
theorem markerSearch : Obligations.MarkerSearch := by
  intro s b hm
  have hrx : exec (.rx b) s = expByte Config.rpd b s := rxByte_exp hm Config.rpd b
  obtain ⟨hhunt0, hhunt1⟩ := expByte_hunt Config.rpd b s
  have hA : b.toNat / 16 = 0xA ↔ highNibble b = 0xA := (highNibble_eq_iff b 0xA).symm
  have h5 : b.toNat / 16 = 0x5 ↔ highNibble b = 0x5 := (highNibble_eq_iff b 0x5).symm
  simp only [hrx, ne_eq, hA, h5]
  refine ⟨fun hph => ?_, fun hph => ?_⟩
  · rw [hhunt0 hph]
    exact ⟨fun hb => congrArg _ (hunt0_marker hb s), fun hb => congrArg _ (hunt0_other hb s)⟩
  · rw [hhunt1 hph]
    exact ⟨fun hb => congrArg _ (hunt1_marker hb s), fun hb => congrArg _ (hunt1_firstMarker hb s),
      fun hb hb' => congrArg _ (hunt1_other hb hb' s)⟩

/-! ## A whole search -/

/-- In HUNT0 a byte that is no first marker is discarded (R192). -/
theorem feed_cons_garbage {s : State} (hm : s.mode = .exp) (hph : s.xd.ph = .hunt0) {b : Byte}
    (hb : highNibble b ≠ 0xA) (bs : List Byte) :
    feed Config.rpd (b :: bs) s = feed Config.rpd bs (discardBytes Config.rpd 1 s) := by
  rw [feed_cons_exp hm ((expByte_hunt Config.rpd b s).1 hph), hunt0_other hb]

/-- Bytes without the first marker are one discard of them all. -/
theorem feed_garbage {s : State} (hm : s.mode = .exp) (hph : s.xd.ph = .hunt0) {b : Byte} {bs : List Byte}
    (hbs : ∀ g ∈ b :: bs, highNibble g ≠ 0xA) :
    feed Config.rpd (b :: bs) s = .next (discardBytes Config.rpd (bs.length + 1) s) := by
  obtain ⟨hb, hrest⟩ := List.forall_mem_cons.1 hbs
  rw [feed_cons_garbage hm hph hb]
  induction bs generalizing s b with
  | nil => rfl
  | cons b' bs ih =>
    obtain ⟨hb', hrest'⟩ := List.forall_mem_cons.1 hrest
    have hm' : (discardBytes Config.rpd 1 s).mode = .exp := hm
    have hph' : (discardBytes Config.rpd 1 s).xd.ph = .hunt0 := hph
    rw [feed_cons_garbage hm' hph' hb', ih hm' hph' hrest hb' hrest', discardBytes_discardBytes, List.length_cons,
      Nat.add_comm 1]

/-- Settles O35: the search is one discard, from registers that count nothing yet. -/
theorem garbageIsReportedOnce : Obligations.GarbageIsReportedOnce := by
  intro s bs hm hph hepi hdisc hlos hbs
  cases bs with
  | nil =>
    obtain ⟨mode, expect, hp, pl, sd, xd, port, events, consumer⟩ := s
    obtain ⟨ph, pos, disc, epi, los, refLo, ref, prev, pvalid, cab, cur, pend⟩ := xd
    simp only at hepi hdisc hlos
    subst hepi hdisc hlos
    simp
  | cons b bs =>
    have hgarbage : ∀ g ∈ b :: bs, highNibble g ≠ 0xA := fun g hg =>
      mt (highNibble_eq_iff g 0xA).1 (hbs g hg)
    have hzero : s.xd.disc.toNat = 0 := by rw [hdisc]; rfl
    rw [feed_garbage hm hph hgarbage]
    simp [discardBytes, State.emits, discardRegs_eq, discardEvents_eq, hepi, hzero, hlos]

end Sys2Proof.Machine
end

section
/-! PROOF. The express packet's fields (44_express_scan.md R193, R194, R196, R197): the reference angle, the samples of
a cabin, and the interpolated angle of each pending entry. -/

namespace Sys2Proof.Machine

/-! ## The fields of a cabin -/

/-- A distance is its high byte above the field over the two low bits (R196). -/
theorem cabinDist_eq_join (lo hi : Byte) : cabinDist lo hi = join hi (lo.extractLsb' 2 6) := by
  have hlo : lo.zeroExtend 14 >>> 2 = (lo.extractLsb' 2 6).zeroExtend 14 := by
    refine BitVec.eq_of_toNat_eq ?_
    simp [Nat.shiftRight_eq_div_pow]
    omega
  rw [cabinDist, BitVec.or_comm, hlo, or_shiftLeft_eq_join]
  exact BitVec.setWidth_eq _

/-- A magnitude is the low bit of its byte above its nibble (R197). -/
theorem cabinMag_eq_join (lo : Byte) (nib : BitVec 4) : cabinMag lo nib = join (lo.extractLsb' 0 1) nib := by
  rw [cabinMag, BitVec.or_comm, or_shiftLeft_eq_join]
  exact BitVec.setWidth_eq _

theorem cabinDist_toNat (lo hi : Byte) : (cabinDist lo hi).toNat = hi.toNat * 64 + lo.toNat / 4 := by
  have hlo := lo.isLt
  simp only [cabinDist_eq_join, join_toNat, field_toNat, Nat.reducePow]
  omega

theorem cabinMag_toNat (lo : Byte) (nib : BitVec 4) :
    (cabinMag lo nib).toNat = lo.toNat % 2 * 16 + nib.toNat := by
  simp only [cabinMag_eq_join, join_toNat, field_toNat, Nat.reducePow, Nat.div_one]

/-- The delta is the magnitude under its sign (R194, R197). -/
theorem deltaQ3_eq (e : Pair) : deltaQ3 e = (if e.sgn = true then -1 else 1) * (e.mag.toNat : Int) := by
  unfold deltaQ3
  split <;> simp

/-- Settles O38: each field as the number it is, and the deltas from these. -/
theorem cabinFields : Obligations.CabinFields := by
  intro b0 b1 b2 b3 b4
  have hsgn (b : Byte) : b.getLsbD 1 = decide (b.toNat / 2 % 2 = 1) := bit_eq_decide b 1
  have hmag1 : (cabinFirst b0 b1 b4).mag.toNat = b0.toNat % 2 * 16 + b4.toNat % 16 := by
    simp [cabinFirst, cabinMag_toNat]
  have hmag2 : (cabinSecond b2 b3 b4).mag.toNat = b2.toNat % 2 * 16 + b4.toNat / 16 := by
    have hb4 := b4.isLt
    simp [cabinSecond, cabinMag_toNat]
    omega
  refine ⟨cabinDist_toNat b0 b1, cabinDist_toNat b2 b3, hsgn b0, hmag1, hsgn b2, hmag2, ?_, ?_⟩
  · rw [deltaQ3_eq, hmag1, cabinFirst, hsgn]
    simp only [decide_eq_true_eq]
  · rw [deltaQ3_eq, hmag2, cabinSecond, hsgn]
    simp only [decide_eq_true_eq]

/-! ## The reference angle -/

/-- The reference angle is seven bits of its high byte above the low byte (R193). -/
theorem refAngle_eq_join (b refLo : Byte) : refAngle b refLo = join (b.extractLsb' 0 7) refLo := by
  rw [refAngle, BitVec.or_comm, or_shiftLeft_eq_join]
  exact BitVec.setWidth_eq _

theorem refAngle_toNat (b refLo : Byte) : (refAngle b refLo).toNat = b.toNat % 128 * 256 + refLo.toNat := by
  simp only [refAngle_eq_join, join_toNat, field_toNat, Nat.reducePow, Nat.div_one]

/-- Offset 3 reports the boundary and then the pending packet (R193). -/
theorem refEvents_eq (x : ExpRegs) (ref : BitVec 15) :
    refEvents Config.rpd x ref = (if ref.toNat < x.prev.toNat then [.boundary .exp] else [])
      ++ (if x.pvalid = true then pendingEvents Config.rpd x.prev ref x.pend else []) := by
  simp only [refEvents, wrapped, decide_eq_true_eq]

/-- In the body the first two bytes are the reference angle's (R193). -/
theorem expByte_ref {s : State} (hph : s.xd.ph = .body) (c : Config) (b : Byte) :
    (s.xd.pos = 2 → expByte c b s = .next (refByteLow b s))
      ∧ (s.xd.pos = 3 → expByte c b s = .next (refByteHigh c b s)) := by
  constructor <;> intro hp <;> simp [expByte, hph, hp]

/-- Settles O36: the byte at each offset is the reference angle's, and the angle is the number R193 gives. -/
theorem referenceAngleBytes : Obligations.ReferenceAngleBytes := by
  intro s b hm hph
  have hrx : exec (.rx b) s = expByte Config.rpd b s := rxByte_exp hm Config.rpd b
  obtain ⟨hlow, hhigh⟩ := expByte_ref hph Config.rpd b
  refine ⟨fun hp => hrx.trans (hlow hp), fun hp ref href => ?_⟩
  obtain rfl : refAngle b s.xd.refLo = ref := BitVec.eq_of_toNat_eq ((refAngle_toNat b _).trans href.symm)
  rw [hrx, hhigh hp, refByteHigh, State.emits, refEvents_eq, List.append_assoc]

/-! ## The interpolated angle -/

/-- The difference of the reference angles, a full turn added when the angle went down (R194). -/
theorem deltaQ6_eq (prev ref : BitVec 15) :
    deltaQ6 Config.rpd prev ref = if ref.toNat < prev.toNat then (ref.toNat : Int) - prev.toNat + 23040
      else (ref.toNat : Int) - prev.toNat := by
  have hneg : (ref.toNat : Int) - prev.toNat < 0 ↔ ref.toNat < prev.toNat := by omega
  simp only [deltaQ6, hneg]
  rfl

/-- With 32 samples to a packet the division by `INTERP_DIV` is exact (R194; log 14). -/
theorem interpolated_eq (prev ref : BitVec 15) (i : Nat) (e : Pair) :
    interpolated Config.rpd prev ref i e
      = (prev.toNat : Int) * 32 + deltaQ6 Config.rpd prev ref * i - deltaQ3 e * 256 := by
  have hexact (d : Int) : d * 32 * i / (32 : Nat) = d * i := by
    rw [Int.mul_right_comm]
    exact Int.mul_ediv_cancel _ (by decide)
  rw [interpolated, Config.rpd_interpDiv, hexact]

/-- A reduced angle fits its 20 bits (R194). -/
theorem angleQ11_toNat (a : Int) : ((angleQ11 Config.rpd a).toNat : Int) = a % 737280 := by
  simp only [angleQ11, Config.rpd_degQ11Full, BitVec.toNat_ofNat]
  omega

/-- A delta is a signed number of five bits and a sign (R197). -/
theorem deltaQ3_range (e : Pair) : -31 ≤ deltaQ3 e ∧ deltaQ3 e ≤ 31 := by
  have hmag := e.mag.isLt
  unfold deltaQ3
  split <;> omega

/-- The range of the angle before reduction: the angle lies on a line in `i`, so the ends of the packet bound it. -/
theorem interpolated_range (prev ref : BitVec 15) {i : Nat} (hi : i < 32) (e : Pair) :
    -7936 ≤ interpolated Config.rpd prev ref i e ∧ interpolated Config.rpd prev ref i e ≤ 1770689 := by
  have hprev := prev.isLt
  have href := ref.isLt
  obtain ⟨hlow, hhigh⟩ := deltaQ3_range e
  have hlast : (i : Int) ≤ 31 := by omega
  have hline (d : Int) : (0 ≤ d → 0 ≤ d * i ∧ d * i ≤ d * 31) ∧ (d ≤ 0 → d * 31 ≤ d * i ∧ d * i ≤ 0) :=
    ⟨fun hd => ⟨mul_nonneg hd i.cast_nonneg, mul_le_mul_of_nonneg_left hlast hd⟩,
      fun hd => ⟨mul_le_mul_of_nonpos_left hlast hd, mul_nonpos_of_nonpos_of_nonneg hd i.cast_nonneg⟩⟩
  obtain ⟨hup, hdown⟩ := hline (deltaQ6 Config.rpd prev ref)
  rw [interpolated_eq]
  rw [deltaQ6_eq] at hup hdown ⊢
  split_ifs at hup hdown ⊢ <;> omega

/-- An entry's event, by its distance (R194). -/
theorem pendingEvent_eq (c : Config) (prev ref : BitVec 15) (i : Nat) (e : Pair) :
    (e.dist.toNat = 0 → pendingEvent c prev ref i e = .zeroReturn .exp)
      ∧ (0 < e.dist.toNat →
        pendingEvent c prev ref i e = .expSample (angleQ11 c (interpolated c prev ref i e)) e.dist) :=
  ⟨fun h => if_neg (by omega), fun h => if_pos h⟩

/-- Every pending entry has one event, in ascending index (R194). -/
theorem getElem?_pendingEvents (c : Config) (prev ref : BitVec 15) (pend : Vector Pair 32) {i : Nat} (hi : i < 32) :
    (pendingEvents c prev ref pend)[i]? = some (pendingEvent c prev ref i pend[i]) := by
  simp [pendingEvents, hi]

/-- Settles O37: entry by entry, and the two ends of the range. -/
theorem interpolationLaw : Obligations.InterpolationLaw := by
  refine ⟨fun prev ref pend => ⟨by simp [pendingEvents], fun i hi => ?_⟩,
    fun prev ref _ e hi => interpolated_range prev ref hi e, ?_, ?_⟩
  · obtain ⟨hzero, hsample⟩ := pendingEvent_eq Config.rpd prev ref i pend[i]
    rw [getElem?_pendingEvents _ _ _ _ hi]
    refine ⟨fun h => by rw [hzero h], fun h => ⟨_, by rw [hsample h], ?_⟩⟩
    rw [angleQ11_toNat, interpolated_eq, deltaQ6_eq]
    rfl
  · exact ⟨0, 0, 0, { dist := 0, sgn := false, mag := 31 }, by decide, by decide⟩
  · exact ⟨32767, 32766, 31, { dist := 0, sgn := true, mag := 31 }, by decide, by decide⟩

end Sys2Proof.Machine
end

section
/-! PROOF. The cabins of an express packet (44_express_scan.md R195 to R200, 30_encoding.md R76): one cabin byte, and a
whole cabin at its place. -/

namespace Sys2Proof.Machine

/-! ## One cabin byte -/

/-- The first four bytes of a cabin are latched (R195). -/
theorem expByte_latch {s : State} (hph : s.xd.ph = .body) (k : Fin 16) {j : Nat} (hj : j < 4)
    (hp : s.xd.pos.toNat = 4 + 5 * k.val + j) (b : Byte) :
    expByte Config.rpd b s = .next { s with
      xd := { s.xd with cab := s.xd.cab.set j b hj, pos := s.xd.pos + 1 } } := by
  have hk := k.isLt
  have hlast : ¬ s.xd.pos.toNat + 1 = 84 := by omega
  rw [expByte_cabin k j hph (by omega) hp, Config.rpd_expUnit, if_neg hlast, cabinLatch, dif_pos hj]

/-- The registers after a cabin's fifth byte, which has filled its two entries: the packet goes on, or is committed
(R198, R200). -/
def afterCabin (k : Fin 16) (x : ExpRegs) : ExpRegs :=
  if k.val = 15 then packetCommit x else { x with pos := x.pos + 1 }

/-- The fifth byte fills the cabin's two entries (R195, R198). -/
theorem expByte_fifth {s : State} (hph : s.xd.ph = .body) (k : Fin 16) (hp : s.xd.pos.toNat = 4 + 5 * k.val + 4)
    (b : Byte) :
    expByte Config.rpd b s = .next { s with xd := afterCabin k { s.xd with
      cur := (s.xd.cur.set (2 * k.val) (cabinFirst s.xd.cab[0] s.xd.cab[1] b)).set (2 * k.val + 1)
        (cabinSecond s.xd.cab[2] s.xd.cab[3] b) } } := by
  have hlast : s.xd.pos.toNat + 1 = 84 ↔ k.val = 15 := by omega
  rw [expByte_cabin k 4 hph (by omega) hp]
  simp only [Config.rpd_expUnit, hlast]
  rfl

/-- Settles O39: the byte is latched or the cabin's fifth, and only cabin 15 is the packet's last. -/
theorem cabinBytes : Obligations.CabinBytes := by
  intro s b k j hm hph hp
  have hrx : exec (.rx b) s = expByte Config.rpd b s := rxByte_exp hm Config.rpd b
  rw [hrx]
  refine ⟨fun hj => expByte_latch hph k hj hp b, ?_⟩
  rintro rfl cur rfl
  rw [expByte_fifth hph k hp]
  refine ⟨fun hk => ?_, fun hk => ?_⟩
  · rw [afterCabin, if_neg (by omega)]
  · rw [afterCabin, if_pos hk]
    rfl

/-! ## A whole cabin -/

/-- The decoder's samples are those of 30_encoding.md (R76, R196, R197). -/
theorem decodeCabin_eq (b0 b1 b2 b3 b4 : Byte) :
    decodeCabin b0 b1 b2 b3 b4 = { s1 := cabinFirst b0 b1 b4, s2 := cabinSecond b2 b3 b4 } := by
  simp only [decodeCabin, cabinFirst, cabinSecond, cabinDist_eq_join, cabinMag_eq_join]

/-- `XD_CAB` takes the first four of a cabin's bytes (R195). -/
theorem cabinHead_of_encodeCabin {cab : Cabin} {b0 b1 b2 b3 b4 : Byte} (h : encodeCabin cab = [b0, b1, b2, b3, b4]) :
    cabinHead cab = #v[b0, b1, b2, b3] := by
  cases h
  rfl

/-- Four bytes leave nothing of what `XD_CAB` held. -/
theorem cabinBuffer_overwritten (cab : Vector Byte 4) (b0 b1 b2 b3 : Byte) :
    (((cab.set 0 b0).set 1 b1).set 2 b2).set 3 b3 = #v[b0, b1, b2, b3] := by
  obtain ⟨⟨l⟩, hl⟩ := cab
  match l, hl with
  | [_, _, _, _], _ => rfl

/-- The offset of the byte after a latched one. -/
theorem bodyOffset_succ {p : BitVec 7} {k : Fin 16} {j : Nat} (hj : j < 4) (hp : p.toNat = 4 + 5 * k.val + j) :
    (p + 1).toNat = 4 + 5 * k.val + (j + 1) := by
  have hk := k.isLt
  bv_omega

/-- A latched byte, and then the others. -/
theorem feed_latch {s : State} (hm : s.mode = .exp) (hph : s.xd.ph = .body) (k : Fin 16) {j : Nat} (hj : j < 4)
    (hp : s.xd.pos.toNat = 4 + 5 * k.val + j) (b : Byte) (bs : List Byte) :
    feed Config.rpd (b :: bs) s = feed Config.rpd bs { s with
      xd := { s.xd with cab := s.xd.cab.set j b hj, pos := s.xd.pos + 1 } } := by
  rw [feed_cons_exp hm (expByte_latch hph k hj hp b)]

/-- Five bytes from a cabin's first offset on. -/
theorem feed_fiveCabinBytes {s : State} (hm : s.mode = .exp) (hph : s.xd.ph = .body) (k : Fin 16)
    (hp : s.xd.pos.toNat = 4 + 5 * k.val) (b0 b1 b2 b3 b4 : Byte) :
    feed Config.rpd [b0, b1, b2, b3, b4] s = .next { s with xd := afterCabin k { s.xd with
      cab := #v[b0, b1, b2, b3], pos := s.xd.pos + 4
      cur := (s.xd.cur.set (2 * k.val) (cabinFirst b0 b1 b4)).set (2 * k.val + 1) (cabinSecond b2 b3 b4) } } := by
  have hp1 : (s.xd.pos + 1).toNat = 4 + 5 * k.val + 1 := bodyOffset_succ (j := 0) (by decide) hp
  have hp2 : (s.xd.pos + 1 + 1).toNat = 4 + 5 * k.val + 2 := bodyOffset_succ (by decide) hp1
  have hp3 : (s.xd.pos + 1 + 1 + 1).toNat = 4 + 5 * k.val + 3 := bodyOffset_succ (by decide) hp2
  have hp4 : (s.xd.pos + 1 + 1 + 1 + 1).toNat = 4 + 5 * k.val + 4 := bodyOffset_succ (by decide) hp3
  have hpos : s.xd.pos + 1 + 1 + 1 + 1 = s.xd.pos + 4 := by
    simp only [BitVec.add_assoc]
    rfl
  rw [feed_latch hm hph k (j := 0) (by decide) hp, feed_latch (by exact hm) (by exact hph) k (by decide) hp1,
    feed_latch (by exact hm) (by exact hph) k (by decide) hp2,
    feed_latch (by exact hm) (by exact hph) k (by decide) hp3, feed_singleton, rxByte_exp (by exact hm),
    expByte_fifth (by exact hph) k hp4]
  simp only [cabinBuffer_overwritten, hpos]
  rfl

/-- The bytes of a cabin at its place. -/
theorem feed_encodeCabin {s : State} (hm : s.mode = .exp) (hph : s.xd.ph = .body) (k : Fin 16)
    (hp : s.xd.pos.toNat = 4 + 5 * k.val) (cab : Cabin) :
    feed Config.rpd (encodeCabin cab) s = .next { s with xd := afterCabin k { s.xd with
      cab := cabinHead cab, pos := s.xd.pos + 4
      cur := (s.xd.cur.set (2 * k.val) cab.s1).set (2 * k.val + 1) cab.s2 } } := by
  obtain ⟨b0, b1, b2, b3, b4, hbytes, hcab⟩ := exists_decodeCabin_encodeCabin cab
  rw [cabinHead_of_encodeCabin hbytes, hbytes, ← hcab, decodeCabin_eq]
  exact feed_fiveCabinBytes hm hph k hp b0 b1 b2 b3 b4

/-- Settles O40: EXP_CABIN is its bytes. -/
theorem expCabinFillsTwoEntries : Obligations.ExpCabinFillsTwoEntries := by
  rintro s cab k cur hm hph hp rfl
  have hexec : exec (.expCabin cab) s = feed Config.rpd (encodeCabin cab) s := rfl
  rw [hexec, feed_encodeCabin hm hph k hp]
  refine ⟨fun hk => ?_, fun hk => ?_⟩
  · have hpos : s.xd.pos + 4 + 1 = s.xd.pos + 5 := BitVec.add_assoc ..
    rw [afterCabin, if_neg (by omega), hpos]
  · rw [afterCabin, if_pos hk]
    rfl

end Sys2Proof.Machine
end

section
/-! PROOF. A whole express packet (44_express_scan.md R190 to R202, 30_encoding.md R75): its sixteen cabins, its head,
and the packet after a garbage byte. -/

namespace Sys2Proof.Machine

/-! ## The sixteen cabins -/

/-- The sample of each entry of a packet (R199). -/
theorem packetSamples_entry (p : ExpPacket) (k : Fin 16) :
    (packetSamples p)[2 * k.val] = p.cabins[k].s1 ∧ (packetSamples p)[2 * k.val + 1] = p.cabins[k].s2 := by
  constructor
  · simp [packetSamples]
  · have hdiv : (2 * k.val + 1) / 2 = k.val := by omega
    simp [packetSamples, hdiv]

/-- Cabin `k` continues a buffer that holds the entries before it. -/
theorem packetSamples_cabin {p : ExpPacket} {k : Fin 16} {cur : Vector Pair 32}
    (hcur : ∀ (i : Nat) (hi : i < 2 * k.val), cur[i] = (packetSamples p)[i]) :
    ∀ (i : Nat) (hi : i < 2 * (k.val + 1)),
      ((cur.set (2 * k.val) p.cabins[k].s1).set (2 * k.val + 1) p.cabins[k].s2)[i] = (packetSamples p)[i] := by
  intro i hi
  obtain ⟨hfirst, hsecond⟩ := packetSamples_entry p k
  rcases (by omega : i < 2 * k.val ∨ i = 2 * k.val ∨ i = 2 * k.val + 1) with h | rfl | rfl
  · rw [Vector.getElem_set_ne _ _ (by omega), Vector.getElem_set_ne _ _ (by omega), hcur i h]
  · rw [Vector.getElem_set_ne _ _ (by omega), Vector.getElem_set_self, hfirst]
  · rw [Vector.getElem_set_self, hsecond]

/-- The offset after `n` cabins. -/
theorem bodyOffset_toNat {n : Nat} (hn : n < 16) : (BitVec.ofNat 7 (4 + 5 * n)).toNat = 4 + 5 * n := by
  rw [BitVec.toNat_ofNat, Nat.mod_eq_of_lt (by omega)]

/-- The first cabins and the next one. -/
theorem take_succ_cabins (p : ExpPacket) {n : Nat} (hn : n < 16) :
    p.cabins.toList.take (n + 1) = p.cabins.toList.take n ++ [p.cabins[n]] := by
  rw [List.take_succ_eq_append_getElem (by simpa using hn), Vector.getElem_toList]

/-- All cabins but the last: each fills its two entries and leaves the offset at the next one's place. -/
theorem feed_firstCabins {s : State} (hm : s.mode = .exp) (hph : s.xd.ph = .body) (hp : s.xd.pos = 4) (p : ExpPacket)
    {n : Nat} (hn : n ≤ 15) :
    ∃ (cab : Vector Byte 4) (cur : Vector Pair 32),
      feed Config.rpd ((p.cabins.toList.take n).flatMap encodeCabin) s = .next { s with
          xd := { s.xd with cab := cab, cur := cur, pos := BitVec.ofNat 7 (4 + 5 * n) } }
        ∧ ∀ (i : Nat) (hi : i < 2 * n), cur[i] = (packetSamples p)[i] := by
  induction n with
  | zero =>
    have hpos : BitVec.ofNat 7 (4 + 5 * 0) = s.xd.pos := hp.symm
    refine ⟨s.xd.cab, s.xd.cur, ?_, by omega⟩
    rw [List.take_zero, List.flatMap_nil, feed_nil, hpos]
  | succ n ih =>
    obtain ⟨cab, cur, hfeed, hcur⟩ := ih (by omega)
    have hnext : BitVec.ofNat 7 (4 + 5 * n) + 4 + 1 = BitVec.ofNat 7 (4 + 5 * (n + 1)) := by
      bv_omega
    refine ⟨cabinHead p.cabins[n], (cur.set (2 * n) p.cabins[n].s1).set (2 * n + 1) p.cabins[n].s2, ?_,
      packetSamples_cabin (k := ⟨n, by omega⟩) hcur⟩
    rw [take_succ_cabins p (by omega), List.flatMap_append, feed_append, hfeed, andThen_next, List.flatMap_singleton,
      feed_encodeCabin (by exact hm) (by exact hph) ⟨n, by omega⟩ (bodyOffset_toNat (by omega)), afterCabin,
      if_neg (by simp only; omega), hnext]

/-- The cabins of a packet leave its samples pending (R198 to R200). -/
theorem feed_cabins {s : State} (hm : s.mode = .exp) (hph : s.xd.ph = .body) (hp : s.xd.pos = 4) (p : ExpPacket) :
    feed Config.rpd (p.cabins.toList.flatMap encodeCabin) s = .next { s with
      xd := packetCommit { s.xd with cab := cabinHead p.cabins[15], cur := packetSamples p } } := by
  obtain ⟨cab, cur, hfeed, hcur⟩ := feed_firstCabins hm hph hp p (n := 15) le_rfl
  have hsplit : p.cabins.toList = p.cabins.toList.take 15 ++ [p.cabins[15]] := by
    rw [← take_succ_cabins p (by decide), List.take_of_length_le (by simp)]
  have hall : (cur.set 30 p.cabins[15].s1).set 31 p.cabins[15].s2 = packetSamples p :=
    Vector.ext (packetSamples_cabin (k := 15) hcur)
  rw [hsplit, List.flatMap_append, feed_append, hfeed, andThen_next, List.flatMap_singleton,
    feed_encodeCabin (by exact hm) (by exact hph) 15 rfl, ← hall]
  rfl

/-! ## The whole packet -/

/-- A packet begins with the first marker (R75). -/
theorem encodeExpPacket_eq_cons (p : ExpPacket) :
    encodeExpPacket Config.rpd p = join (0xA : BitVec 4) p.low0 :: (encodeExpPacket Config.rpd p).tail := rfl

/-- `s` after a whole packet taken from HUNT0 or HUNT1 (R190 to R200). -/
def State.takePacket (p : ExpPacket) (s : State) : State :=
  { s.emits (refEvents Config.rpd s.xd p.ref) with xd := afterPacket p }

/-- The reference angle is read back from its two bytes, whatever the ignored bit is (R75, R193). -/
theorem refAngle_encoded (f : Bool) (ref : BitVec 15) :
    refAngle (join (flag f) (ref.extractLsb' 8 7)) (ref.extractLsb' 0 8) = ref := by
  simp [refAngle_eq_join]

/-- A byte with its marker in the high nibble (R75). -/
theorem highNibble_join (hi lo : BitVec 4) : highNibble (join hi lo) = hi := by
  simp [highNibble]

/-- Once the first marker is found, the rest of a packet is taken, whatever was discarded before. -/
theorem feed_afterFirstMarker {s : State} (hm : s.mode = .exp) (hph : s.xd.ph = .hunt1) (p : ExpPacket) :
    feed Config.rpd (encodeExpPacket Config.rpd p).tail s = .next (s.takePacket p) := by
  have htail : (encodeExpPacket Config.rpd p).tail
      = join (0x5 : BitVec 4) p.low1 :: p.ref.extractLsb' 0 8 :: join (flag p.flag) (p.ref.extractLsb' 8 7)
        :: p.cabins.toList.flatMap encodeCabin := rfl
  rw [htail, feed_cons_exp hm ((expByte_hunt _ _ s).2 hph), hunt1_marker (highNibble_join ..),
    feed_cons_exp (by exact hm) ((expByte_ref (by rfl) _ _).1 rfl),
    feed_cons_exp (by exact hm) ((expByte_ref (by rfl) _ _).2 rfl),
    feed_cabins (by exact hm) (by rfl) (by rfl), refByteHigh]
  simp only [refByteLow, refAngle_encoded]
  rfl

/-- A packet taken from HUNT0 (R192). -/
theorem feed_encodeExpPacket {s : State} (hm : s.mode = .exp) (hph : s.xd.ph = .hunt0) (p : ExpPacket) :
    feed Config.rpd (encodeExpPacket Config.rpd p) s = .next (s.takePacket p) := by
  rw [encodeExpPacket_eq_cons, feed_cons_exp hm ((expByte_hunt _ _ s).1 hph), hunt0_marker (highNibble_join ..),
    feed_afterFirstMarker (by exact hm) (by rfl)]
  rfl

/-- Settles O41: EXP_PACKET is its bytes. -/
theorem expPacketIsDecoded : Obligations.ExpPacketIsDecoded := by
  intro s p hm hph
  have hexec : exec (.expPacket p) s = feed Config.rpd (encodeExpPacket Config.rpd p) s := rfl
  rw [hexec, feed_encodeExpPacket hm hph, State.takePacket, State.emits, refEvents_eq, List.append_assoc]

/-! ## After a garbage byte -/

/-- A garbage byte before a packet is one discarded byte: at once, or, if it passes for the first marker, when the
packet's own first marker stands in the second's place (D16). -/
theorem feed_garbageByte_encodeExpPacket {s : State} (hm : s.mode = .exp) (hph : s.xd.ph = .hunt0) (g : Byte)
    (p : ExpPacket) :
    feed Config.rpd (g :: encodeExpPacket Config.rpd p) s
      = .next ((discardBytes Config.rpd 1 s).takePacket p) := by
  by_cases hg : highNibble g = 0xA
  · rw [feed_cons_exp hm ((expByte_hunt _ _ s).1 hph), hunt0_marker hg, encodeExpPacket_eq_cons,
      feed_cons_exp (by exact hm) ((expByte_hunt _ _ _).2 rfl), hunt1_firstMarker (highNibble_join ..),
      feed_afterFirstMarker (by exact hm) (by rfl)]
    rfl
  · rw [feed_cons_garbage hm hph hg, feed_encodeExpPacket (by exact hm) (by exact hph)]

/-- Settles O42: the one discarded byte opens an episode that the packet ends. -/
theorem oneGarbageByteCostsNoPacket : Obligations.OneGarbageByteCostsNoPacket := by
  intro s p g hm hph hepi hdisc hlos
  have hdiscard : discardEvents Config.rpd 1 s.xd = [.invalidSync .exp] := by
    simp [discardEvents_eq, hepi, hdisc]
  rw [feed_garbageByte_encodeExpPacket hm hph, State.takePacket, State.emits, refEvents_eq, discardBytes_events,
    hdiscard, List.append_assoc _ (ite _ _ _)]
  rfl

end Sys2Proof.Machine
end

section
/-! PROOF. The reference consumer outside the block (45_scan_aggregator.md R231 to R237): its clock, its view of a
sample, and what it does with one event. -/

namespace Sys2Proof

/-- Settles O59: no gap is negative, so the clock does not go back from one read to the next, nor over several. -/
theorem clockNeverDecreases : Obligations.ClockNeverDecreases := fun _ _ h =>
  monotone_nat_of_le_succ Config.clock_le_succ h

/-- The exact `toRad` takes the degrees of one turn to its radians (R231). -/
theorem Config.rpd_toRad_turn {deg : Rat} (h0 : 0 ≤ deg) (h360 : deg < 360) :
    0 ≤ Config.rpd.toRad deg ∧ Config.rpd.toRad deg < 2 * Real.pi := by
  have hdeg0 : (0 : ℝ) ≤ deg := by exact_mod_cast h0
  have hdeg360 : (deg : ℝ) < 360 := by exact_mod_cast h360
  have hpi := mul_lt_mul_of_pos_right hdeg360 Real.pi_pos
  rw [Config.rpd_toRad]
  exact ⟨by positivity, by linarith⟩

end Sys2Proof

namespace Sys2Proof.Machine

/-! ## The Sample view -/

/-- A count of `parts`-ths of a degree that stays below 360 times `parts` stays below a turn. -/
theorem degrees_turn {n parts : Nat} (hn : n < 360 * parts) : 0 ≤ (n : Rat) / parts ∧ (n : Rat) / parts < 360 := by
  have hparts : (0 : Rat) < parts := by norm_cast; omega
  exact ⟨by positivity, (div_lt_iff₀ hparts).2 (by exact_mod_cast hn)⟩

/-- Settles O56: the views by their definitions, `toRad` as configured, and less than a turn of degrees under the exact
`toRad`. -/
theorem sampleView : Obligations.SampleView := by
  refine ⟨fun c a d q hfull => ⟨?_, rfl, rfl⟩, fun c a d => ⟨rfl, rfl, rfl⟩, fun c f => Config.toRad_some,
    Config.rpd_toRad, fun a d q => ?_, fun a d ha => ?_⟩
  · rw [Radians.value_eq, viewStd, hfull]
  · have hmod : a.toNat % 23040 < 360 * 64 := Nat.mod_lt _ (by decide)
    obtain ⟨h0, h360⟩ := degrees_turn hmod
    exact Config.rpd_toRad_turn h0 h360
  · have hlt : a.toNat < 360 * 2048 := ha
    obtain ⟨h0, h360⟩ := degrees_turn hlt
    exact Config.rpd_toRad_turn h0 h360

/-! ## One event -/

/-- Settles O57: the event is `onBoundary` at the clock's next read. -/
theorem boundaryDeliversTheOpenScan : Obligations.BoundaryDeliversTheOpenScan := by
  intro c k src
  change onBoundary (c.now k.clockReads) { k with eventsRead := k.eventsRead + 1 } = _
  rw [onBoundary, scanRate]

/-- An event of an error kind is read, and nothing else (R235). -/
theorem onEvent_of_isError {e : Event} (h : e.isError = true) (c : Config) (k : Consumer) :
    onEvent c k e = { k with eventsRead := k.eventsRead + 1 } := by
  cases e with
  | invalidSync _ | truncated _ _ | unexpectedResponse _ _ _ | lossOfSync _ | transportFailure | stdCheckFail _ => rfl
  | _ => exact absurd h Bool.false_ne_true

/-- Settles O58: each kind of event by its own operation, and the kinds that aggregate nothing are only read. -/
theorem consumerAggregates : Obligations.ConsumerAggregates := by
  intro c k
  refine ⟨fun a d q => rfl, fun a d => rfl, fun src => rfl, fun e => rfl, fun r => ⟨rfl, rfl, rfl, rfl⟩, ?_⟩
  rintro e (⟨x, rfl⟩ | ⟨x, y, z, rfl⟩ | ⟨x, y, rfl⟩ | ⟨x, rfl⟩ | herror)
  · rfl
  · rfl
  · rfl
  · rfl
  · exact onEvent_of_isError herror c k

end Sys2Proof.Machine
end

section
/-! PROOF. A step that runs no instruction (60_exceptions.md R257, 40_host_interface.md R100; log 3, log 11). -/

namespace Sys2Proof.Machine

/-- With nothing at the port the block waits (log 3). -/
theorem step_of_port_nil {s : State} (hp : s.port = []) : step s = .next s := by
  simp only [step, runItem, fetch, hp]

/-- An item that does not decode ends the run under the decoder's name (log 11). -/
theorem step_of_decode_error {s : State} {tx : Transaction} {rest : List Transaction} {why : DecodeError}
    (hp : s.port = tx :: rest) (hd : decode Config.rpd tx = .error why) : step s = .refused (.undecodable why) := by
  simp only [step, runItem, fetch_of_port_cons hp, hd, refusalOf_rpd hd]

/-- Settles O7: the port is empty, or its first item is one the decoder does not accept. -/
theorem stepWaitsAndRejectsByName : Obligations.StepWaitsAndRejectsByName :=
  ⟨fun _ hp => step_of_port_nil hp, fun _ _ _ _ hp hd => step_of_decode_error hp hd⟩

end Sys2Proof.Machine
end

section
/-! PROOF. The block has no fault state (60_exceptions.md R250): with the registers in range every unit takes every byte,
and so every operation but the reserved words has a result. -/

namespace Sys2Proof.Machine

/-- A header that is not complete takes a byte (R155). -/
theorem headerByte_answers {s : State} (hc : s.hp.cnt.toNat < 7) (b : Byte) :
    ∃ t, headerByte Config.rpd b s = .next t := by
  rcases Nat.lt_or_eq_of_le (Nat.le_of_lt_succ hc) with h | h
  · exact ⟨_, headerByte_collect h b⟩
  · exact ⟨_, headerByte_seventh (BitVec.eq_of_toNat_eq h) b⟩

/-- A packet's body takes a byte at each of its offsets 2 to 83 (R193, R195). -/
theorem expByte_body_answers {s : State} (hph : s.xd.ph = .body) (h2 : 2 ≤ s.xd.pos.toNat) (h83 : s.xd.pos.toNat ≤ 83)
    (b : Byte) : ∃ t, expByte Config.rpd b s = .next t := by
  obtain ⟨hlow, hhigh⟩ := expByte_ref hph Config.rpd b
  have hoffset : s.xd.pos = 2 ∨ s.xd.pos = 3 ∨ 4 ≤ s.xd.pos.toNat := by bv_omega
  rcases hoffset with hp | hp | hp
  · exact ⟨_, hlow hp⟩
  · exact ⟨_, hhigh hp⟩
  · have hcabin : (s.xd.pos.toNat - 4) / 5 < 16 := by omega
    have hsplit : s.xd.pos.toNat = 4 + 5 * ((s.xd.pos.toNat - 4) / 5) + (s.xd.pos.toNat - 4) % 5 := by omega
    exact ⟨_, expByte_cabin ⟨_, hcabin⟩ _ hph (Nat.mod_lt _ (by decide)) hsplit⟩

/-- An express decoder in range takes a byte in each phase (R190). -/
theorem expByte_answers {s : State} (hx : s.xd.Ok) (b : Byte) : ∃ t, expByte Config.rpd b s = .next t := by
  obtain ⟨h0, h1⟩ := expByte_hunt Config.rpd b s
  cases hph : s.xd.ph with
  | hunt0 => exact ⟨_, h0 hph⟩
  | hunt1 => exact ⟨_, h1 hph⟩
  | body =>
    obtain ⟨hbody, -⟩ := hx
    obtain ⟨h2, h83, -⟩ := hbody hph
    exact expByte_body_answers hph h2 h83 b

/-- An inbound byte has a result in every MODE (R250). -/
theorem rxByte_answers {s : State} (hs : s.RegsInv) (b : Byte) : ∃ t, rxByte Config.rpd b s = .next t := by
  obtain ⟨hhdr, hpayload, hstd, hexp⟩ := rxByte_eq Config.rpd b s
  cases hm : s.mode with
  | idle => exact ⟨s, rxByte_idle hm Config.rpd b⟩
  | hdr =>
    obtain ⟨hc, -⟩ := (State.modeOk_hdr hm).1 hs.mode
    exact hhdr hm ▸ headerByte_answers hc b
  | payload =>
    obtain ⟨-, -, hidx, -⟩ := (State.modeOk_payload hm).1 hs.mode
    exact hpayload hm ▸ payloadByte_answers (Nat.lt_of_le_of_lt hidx s.pl.len.isLt) Config.rpd b
  | std =>
    obtain ⟨t, ht, -⟩ := stdByte_advances hs.stdPos b
    exact ⟨t, (hstd hm).trans ht⟩
  | exp => exact hexp hm ▸ expByte_answers hs.exp b

/-- So has any number of bytes, since each leaves the registers in range. -/
theorem feed_answers (bs : List Byte) {s : State} (hs : s.RegsInv) : ∃ t, feed Config.rpd bs s = .next t := by
  induction bs generalizing s with
  | nil => exact ⟨s, rfl⟩
  | cons b bs ih =>
    obtain ⟨u, hu⟩ := rxByte_answers hs b
    rw [feed_cons, hu, andThen_next]
    exact ih (rxByte_regsInv hs hu)

/-- Settles O48: frames and the session operations always answer, and the inbound bytes do from registers in range. -/
theorem everyOperationHasAResult : Obligations.EveryOperationHasAResult := by
  intro s i hs hreserved
  cases hp : i.commandParts with
  | some command => exact ⟨_, exec_sends_frame hp s⟩
  | none =>
    cases i with
    | reset => exact ⟨_, rfl⟩
    | start e => exact ⟨_, rfl⟩
    | stop => exact ⟨_, rfl⟩
    | rx b => exact rxByte_answers hs b
    | encode op p => exact ⟨_, rfl⟩
    | xfail => exact ⟨_, rfl⟩
    | hostOpReserved w p => exact absurd rfl (hreserved w p)
    | respDesc len mode dtype => exact feed_answers _ hs
    | stdUnit u => exact feed_answers _ hs
    | expPacket p => exact feed_answers _ hs
    | expCabin cab => exact feed_answers _ hs
    | _ => cases hp

end Sys2Proof.Machine
end

section
/-! PROOF. The errors a host operation reports (60_exceptions.md R252): what each operation adds to the stream, and which
of that is an error. -/

namespace Sys2Proof.Machine

/-! ## What a host operation adds -/

/-- The six host operations (40_host_interface.md R102). -/
def IsHostOp (i : Instr) : Prop :=
  i = .reset ∨ i = .stop ∨ i = .xfail ∨ (∃ k, i = .start k) ∨ (∃ b, i = .rx b) ∨ ∃ op p, i = .encode op p

/-- The events each host operation adds (R105 to R110). -/
inductive HostOpEvents (s : State) : Instr → List Event → Prop
  | reset : HostOpEvents s .reset (abortEvents Config.rpd .reset s)
  | stop : HostOpEvents s .stop (abortEvents Config.rpd .stop s)
  | xfail : HostOpEvents s .xfail (.transportFailure :: abortEvents Config.rpd .xfail s)
  | start (k : Expect) : HostOpEvents s (.start k) (abortEvents Config.rpd .restart s ++ [.sessionStart k])
  | rx (b : Byte) (es : List Event) : RxEvents b s es → HostOpEvents s (.rx b) es
  | encode (op : Byte) (p : List Byte) (frame : List Byte) : HostOpEvents s (.encode op p) [.txFrame frame]

theorem exec_hostOp_adds {i : Instr} {s t : State} (hi : IsHostOp i) (h : exec i s = .next t) :
    ∃ es, HostOpEvents s i es ∧ t.events = s.events ++ es := by
  rcases hi with rfl | rfl | rfl | ⟨k, rfl⟩ | ⟨b, rfl⟩ | ⟨op, p, rfl⟩
  · cases h; exact ⟨_, .reset, rfl⟩
  · cases h; exact ⟨_, .stop, rfl⟩
  · cases h; exact ⟨_, .xfail, List.append_assoc ..⟩
  · cases h; exact ⟨_, .start k, List.append_assoc ..⟩
  · obtain ⟨es, hes, he⟩ := rxByte_events h
    exact ⟨es, .rx b es hes, he⟩
  · cases h; exact ⟨_, .encode op p _, rfl⟩

/-- The events that make up the difference of the two streams are those the operation added. -/
theorem exec_hostOp_events {i : Instr} {s t : State} {es : List Event} (hi : IsHostOp i)
    (h : exec i s = .next t) (he : t.events = s.events ++ es) : HostOpEvents s i es := by
  obtain ⟨fs, hfs, hf⟩ := exec_hostOp_adds hi h
  exact List.append_cancel_left (hf.symm.trans he) ▸ hfs

/-! ## Which of it is an error -/

/-- The only error the end of a session reports is what it cut short (R111). -/
theorem isError_abortEvents {c : Config} {r : EndReason} {s : State} {e : Event} (he : e ∈ abortEvents c r s)
    (herr : e.isError = true) : ∃ src n, e = .truncated src n := by
  cases abortEvents_ofSession c r s e he with
  | truncated src n => exact ⟨src, n, rfl⟩
  | transportFailure =>
    rcases abortEvents_cases c r s with ⟨-, hes⟩ | ⟨-, hes | ⟨src, n, hes⟩⟩ <;> simp [hes] at he
  | ended | started => exact absurd herr Bool.false_ne_true

/-- A packet's pending entries are samples and zero returns (R194). -/
theorem isError_pendingEvent (c : Config) (prev ref : BitVec 15) (i : Nat) (p : Pair) :
    (pendingEvent c prev ref i p).isError = false := by
  unfold pendingEvent
  split <;> rfl

/-- A reference angle reports no error (R193). -/
theorem isError_refEvents {c : Config} {x : ExpRegs} {ref : BitVec 15} {e : Event} (he : e ∈ refEvents c x ref) :
    e.isError = false := by
  rcases List.mem_append.1 he with he | he
  · split at he
    · cases List.mem_singleton.1 he; rfl
    · cases he
  · split at he
    · obtain ⟨ei, -, rfl⟩ := List.mem_map.1 he
      exact isError_pendingEvent ..
    · cases he

/-- Where an inbound byte reports an error, and which (R252). -/
inductive RxError (b : Byte) (s : State) : Event → Prop
  | badSync : s.mode = .hdr → s.hp.cnt = 6 → RxError b s (.invalidSync .hdr)
  | unexpected (len : BitVec 30) (dtype : Byte) (k : Expect) : s.mode = .hdr → s.hp.cnt = 6 →
      RxError b s (.unexpectedResponse len dtype k)
  | checkFail : s.mode = .std → s.sd.pos = 0 → RxError b s (.stdCheckFail b)
  | garbage : s.mode = .exp → s.xd.ph ≠ .body → RxError b s (.invalidSync .exp)
  | lost (n : BitVec 7) : s.mode = .exp → s.xd.ph ≠ .body → RxError b s (.lossOfSync n)

/-- Every error among a byte's events is one of those. -/
theorem RxEvents.error {b : Byte} {s : State} {es : List Event} {e : Event} (h : RxEvents b s es) (he : e ∈ es)
    (herr : e.isError = true) : RxError b s e := by
  cases h with
  | silent => cases he
  | badSync hm hc =>
    rcases List.mem_pair.1 he with rfl | rfl
    · exact .badSync hm hc
    · cases herr
  | unexpected d hm hc =>
    simp only [List.mem_cons, List.not_mem_nil, or_false] at he
    rcases he with rfl | rfl | rfl
    · cases herr
    · exact .unexpected _ _ _ hm hc
    · cases herr
  | opened | payload | empty | payloadLast =>
    simp only [List.mem_cons, List.not_mem_nil, or_false] at he
    rcases he with rfl | rfl | rfl <;> cases herr
  | stdFlag hm hp =>
    unfold newScanEvents at he
    split_ifs at he
    · cases List.mem_singleton.1 he
      exact .checkFail hm hp
    · cases List.mem_singleton.1 he
      cases herr
    · cases he
  | stdUnit =>
    cases List.mem_singleton.1 he
    unfold stdUnitEvent at herr
    split at herr <;> cases herr
  | search n hm hph =>
    rcases List.mem_append.1 he with he | he
    · split at he
      · cases he
      · cases List.mem_singleton.1 he
        exact .garbage hm hph
    · split at he
      · cases List.mem_singleton.1 he
        exact .lost _ hm hph
      · cases he
  | reference => exact absurd (isError_refEvents he) (by simp [herr])

/-- Which errors a host operation reports (R252): ENCODE none, the session operations what they cut short, XFAIL its
failure besides, and RX those of its byte. -/
inductive HostOpError (s : State) : Instr → Event → Prop
  | cutByReset (src : TruncSrc) (n : BitVec 30) : HostOpError s .reset (.truncated src n)
  | cutByStop (src : TruncSrc) (n : BitVec 30) : HostOpError s .stop (.truncated src n)
  | cutByStart (k : Expect) (src : TruncSrc) (n : BitVec 30) : HostOpError s (.start k) (.truncated src n)
  | cutByXfail (src : TruncSrc) (n : BitVec 30) : HostOpError s .xfail (.truncated src n)
  | failure : HostOpError s .xfail .transportFailure
  | rx (b : Byte) (e : Event) : RxError b s e → HostOpError s (.rx b) e

/-- Every error among a host operation's events is one of those. -/
theorem HostOpEvents.error {s : State} {i : Instr} {es : List Event} {e : Event} (h : HostOpEvents s i es)
    (he : e ∈ es) (herr : e.isError = true) : HostOpError s i e := by
  cases h with
  | reset =>
    obtain ⟨src, n, rfl⟩ := isError_abortEvents he herr
    exact .cutByReset src n
  | stop =>
    obtain ⟨src, n, rfl⟩ := isError_abortEvents he herr
    exact .cutByStop src n
  | xfail =>
    rcases List.mem_cons.1 he with rfl | he
    · exact .failure
    · obtain ⟨src, n, rfl⟩ := isError_abortEvents he herr
      exact .cutByXfail src n
  | start k =>
    rcases List.mem_append.1 he with he | he
    · obtain ⟨src, n, rfl⟩ := isError_abortEvents he herr
      exact .cutByStart k src n
    · cases List.mem_singleton.1 he
      cases herr
  | rx b _ hes => exact .rx b e (hes.error he herr)
  | encode =>
    cases List.mem_singleton.1 he
    cases herr

/-- Settles O49: the error is one `HostOpError` gives the operation, and for RX one `RxError` gives its MODE. -/
theorem errorsEachOperationRaises : Obligations.ErrorsEachOperationRaises := by
  intro s t i es e h he hmem herr
  have herror (hi : IsHostOp i) : HostOpError s i e := (exec_hostOp_events hi h he).error hmem herr
  refine ⟨?_, ?_, ?_, ?_⟩
  · rintro op p rfl
    cases herror (by simp [IsHostOp])
  · rintro (⟨k, rfl⟩ | rfl | rfl)
    · cases herror (by simp [IsHostOp]); exact ⟨_, _, rfl⟩
    · cases herror (by simp [IsHostOp]); exact ⟨_, _, rfl⟩
    · cases herror (by simp [IsHostOp]); exact ⟨_, _, rfl⟩
  · rintro rfl
    cases herror (by simp [IsHostOp]) with
    | cutByXfail src n => exact .inr ⟨src, n, rfl⟩
    | failure => exact .inl rfl
  · rintro b rfl
    cases herror (by simp [IsHostOp]) with
    | rx _ _ hrx =>
      cases hrx with
      | badSync hm hc => simp [hm, hc]
      | unexpected len dtype k hm hc => simp [hm, hc]
      | checkFail hm hp => simp [hm, hp]
      | garbage hm hph => simp [hm, hph]
      | lost n hm hph => simp [hm, hph]

end Sys2Proof.Machine
end

section
/-! PROOF. Fatal errors (60_exceptions.md R255, R257): a host operation reports at most one, and it ends the session. -/

namespace Sys2Proof.Machine

/-! ## How many -/

/-- The errors that end a session (R255, R257). -/
def Event.isFatal (e : Event) : Bool :=
  decide (e = .invalidSync .hdr) || decide (e = .transportFailure) || decide (e.code = 0x12)

theorem Event.isError_of_isFatal {e : Event} (h : e.isFatal = true) : e.isError = true := by
  cases e with
  | invalidSync _ | truncated _ _ | unexpectedResponse _ _ _ | lossOfSync _ | transportFailure | stdCheckFail _ => rfl
  | _ => exact absurd h Bool.false_ne_true

/-- The end of a session is not itself a fatal error. -/
theorem countP_isFatal_abortEvents (c : Config) (r : EndReason) (s : State) :
    (abortEvents c r s).countP Event.isFatal = 0 := by
  refine List.countP_eq_zero.2 fun e he hfatal => ?_
  obtain ⟨src, n, rfl⟩ := isError_abortEvents he (Event.isError_of_isFatal hfatal)
  cases hfatal

/-- A byte's errors are fatal in HDR alone. -/
theorem RxError.mode_of_isFatal {b : Byte} {s : State} {e : Event} (h : RxError b s e) (hfatal : e.isFatal = true) :
    s.mode = .hdr := by
  cases h with
  | badSync hm | unexpected _ _ _ hm => exact hm
  | checkFail | garbage | lost => cases hfatal

theorem RxEvents.countP_isFatal_le_one {b : Byte} {s : State} {es : List Event} (h : RxEvents b s es) :
    es.countP Event.isFatal ≤ 1 := by
  by_cases hm : s.mode = .hdr
  · cases h with
    | silent => exact Nat.zero_le 1
    | badSync | unexpected => exact Nat.le_refl 1
    | opened | empty => exact Nat.zero_le 1
    | _ => simp_all
  · have hnone : es.countP Event.isFatal = 0 := List.countP_eq_zero.2 fun e he hfatal =>
      hm ((h.error he (Event.isError_of_isFatal hfatal)).mode_of_isFatal hfatal)
    omega

theorem HostOpEvents.countP_isFatal_le_one {s : State} {i : Instr} {es : List Event} (h : HostOpEvents s i es) :
    es.countP Event.isFatal ≤ 1 := by
  cases h with
  | reset => rw [countP_isFatal_abortEvents]; exact Nat.zero_le 1
  | stop => rw [countP_isFatal_abortEvents]; exact Nat.zero_le 1
  | xfail => rw [List.countP_cons, countP_isFatal_abortEvents]; exact Nat.le_refl 1
  | start k => rw [List.countP_append, countP_isFatal_abortEvents]; exact Nat.zero_le 1
  | rx b _ hes => exact hes.countP_isFatal_le_one
  | encode => exact Nat.zero_le 1

/-! ## What follows -/

/-- A descriptor that is refused ends the session in the same step (R156). -/
theorem headerComplete_fatal {s : State} {es : List Event} (hm : s.mode = .hdr) (hc : s.hp.cnt = 7)
    (he : (headerComplete Config.rpd s).events = s.events ++ es)
    (hfatal : .invalidSync .hdr ∈ es ∨ ∃ len dtype k, .unexpectedResponse len dtype k ∈ es) :
    es.getLast? = some (.sessionEnd .fatal) ∧ (headerComplete Config.rpd s).mode = .idle := by
  rcases headerComplete_cases s hm hc with
    e | ⟨d, e⟩ | ⟨d, -, e⟩ | ⟨d, -, e⟩ | ⟨d, -, -, e⟩ | ⟨d, -, e⟩ <;>
    rw [e] at he ⊢ <;> cases List.append_cancel_left he
  · exact ⟨rfl, rfl⟩
  · exact ⟨rfl, rfl⟩
  all_goals simp at hfatal

/-- An open session ends with SessionEnd, after what it cut short (R111). -/
theorem getLast?_abortEvents {s : State} (hm : s.mode ≠ .idle) (c : Config) (r : EndReason) :
    (abortEvents c r s).getLast? = some (.sessionEnd r) := by
  rcases abortEvents_cases c r s with ⟨hidle, -⟩ | ⟨-, he | ⟨src, n, he⟩⟩
  · exact absurd hidle hm
  · rw [he]; rfl
  · rw [he]; rfl

/-! ## The search -/

/-- A byte of the search that adds events adds what its discard reports (R192). -/
theorem RxEvents.eq_discardEvents {b : Byte} {s : State} {es : List Event} (h : RxEvents b s es) (hm : s.mode = .exp)
    (hph : s.xd.ph ≠ .body) (hne : es ≠ []) : ∃ m ≤ 2, es = discardEvents Config.rpd m s.xd := by
  cases h with
  | silent => exact absurd rfl hne
  | search m _ _ hm12 => exact ⟨m, by omega, rfl⟩
  | _ => simp_all

/-- An episode begins far from the limit, so one discard does not report both its ends (R191). -/
theorem not_invalidSync_and_lossOfSync {x : ExpRegs} (hx : x.Ok) {m : Nat} (hm : m ≤ 2) :
    ¬ (.invalidSync .exp ∈ discardEvents Config.rpd m x ∧ ∃ n, .lossOfSync n ∈ discardEvents Config.rpd m x) := by
  obtain ⟨-, -, -, hepi, -, -⟩ := hx
  rintro ⟨hsync, n, hlost⟩
  rw [discardEvents_eq] at hsync hlost
  have hclosed : x.epi = false := by
    by_contra hopen
    simp [hopen] at hsync
  have hover : 84 < x.disc.toNat + m := by
    by_contra hbelow
    simp [hbelow] at hlost
  have hopen : x.epi = true := hepi.2 (by omega)
  exact absurd (hclosed.symm.trans hopen) Bool.false_ne_true

/-! ## Every host operation -/

/-- A refused descriptor is reported at a descriptor's seventh byte alone, and ends the session. -/
theorem exec_rx_fatal {b : Byte} {s t : State} {es : List Event} (h : exec (.rx b) s = .next t)
    (he : t.events = s.events ++ es) (hm : s.mode = .hdr) (hc : s.hp.cnt = 6)
    (hfatal : .invalidSync .hdr ∈ es ∨ ∃ len dtype k, .unexpectedResponse len dtype k ∈ es) :
    es.getLast? = some (.sessionEnd .fatal) ∧ t.mode = .idle := by
  rw [(headerByteIsCollected s b hm).2 hc] at h
  cases h
  exact headerComplete_fatal hm rfl he hfatal

/-- After XFAIL with a session open the last event is the session's end (R110). -/
theorem getLast?_xfailEvents {s : State} (hm : s.mode ≠ .idle) :
    (Event.transportFailure :: abortEvents Config.rpd .xfail s).getLast? = some (.sessionEnd .xfail) := by
  simp [List.getLast?_cons, getLast?_abortEvents hm]

/-- Settles O50: the errors in question are each one operation's (`HostOpEvents.error`), so that operation's events are
all there is to look at. -/
theorem atMostOneFatalError : Obligations.AtMostOneFatalError := by
  intro s t i es hs hi h he
  have hes : HostOpEvents s i es := exec_hostOp_events hi h he
  refine ⟨hes.countP_isFatal_le_one, fun hfatal => ?_, fun hfailure hm => ?_, ?_⟩
  · rcases hfatal with hmem | ⟨len, dtype, k, hmem⟩
    · cases hes.error hmem rfl with
      | rx b _ hrx =>
        cases hrx with
        | badSync hm hc => exact exec_rx_fatal h he hm hc (.inl hmem)
    · cases hes.error hmem rfl with
      | rx b _ hrx =>
        cases hrx with
        | unexpected _ _ _ hm hc => exact exec_rx_fatal h he hm hc (.inr ⟨len, dtype, k, hmem⟩)
  · cases hes.error hfailure rfl with
    | failure =>
      cases hes
      cases h
      exact ⟨getLast?_xfailEvents hm, rfl⟩
    | rx b _ hrx => cases hrx
  · rintro ⟨hsync, n, hlost⟩
    cases hes.error hlost rfl with
    | rx b _ hrx =>
      cases hrx with
      | lost _ hm hph =>
        cases hes with
        | rx _ _ hbyte =>
          obtain ⟨m, hm2, rfl⟩ := hbyte.eq_discardEvents hm hph (List.ne_nil_of_mem hlost)
          exact not_invalidSync_and_lossOfSync hs.exp hm2 ⟨hsync, n, hlost⟩

end Sys2Proof.Machine
end

section
/-! PROOF. The largest step (70_reset_and_hazards.md R287): how many events each host operation adds. -/

namespace Sys2Proof.Machine

/-! ## The lists of events -/

/-- The end of a session is at most Truncated and SessionEnd (R111). -/
theorem length_abortEvents_le (c : Config) (r : EndReason) (s : State) : (abortEvents c r s).length ≤ 2 := by
  rcases abortEvents_cases c r s with ⟨-, he⟩ | ⟨-, he | ⟨_, _, he⟩⟩ <;> simp [he]

/-- A standard offset-0 byte reports a check failure, a boundary or nothing (R171). -/
theorem length_newScanEvents_le (b : Byte) : (newScanEvents b).length ≤ 1 := by
  unfold newScanEvents
  split_ifs <;> simp

/-- A discard reports at most the start of an episode and the loss of sync (R191). -/
theorem length_discardEvents_le (c : Config) (n : Nat) (x : ExpRegs) : (discardEvents c n x).length ≤ 2 := by
  unfold discardEvents
  split_ifs <;> simp

/-- Every pending entry is one event (R194). -/
theorem length_pendingEvents (c : Config) (prev ref : BitVec 15) (pend : Vector Pair 32) :
    (pendingEvents c prev ref pend).length = 32 := by
  simp [pendingEvents]

/-- A reference angle reports at most a boundary and the pending packet (R193). -/
theorem length_refEvents_le (c : Config) (x : ExpRegs) (ref : BitVec 15) : (refEvents c x ref).length ≤ 33 := by
  unfold refEvents
  split_ifs <;> simp [length_pendingEvents]

/-! ## Every host operation -/

/-- A byte adds few events, or it completes a packet's reference angle. -/
theorem RxEvents.length_le {b : Byte} {s : State} {es : List Event} (h : RxEvents b s es) :
    es.length ≤ 3 ∨ (es.length ≤ 33 ∧ s.mode = .exp ∧ s.xd.ph = .body ∧ s.xd.pos = 3) := by
  cases h with
  | silent | badSync | unexpected | opened | empty | payload | payloadLast | stdUnit => exact .inl (by simp)
  | stdFlag => exact .inl ((length_newScanEvents_le b).trans (by decide))
  | search n => exact .inl ((length_discardEvents_le _ n s.xd).trans (by decide))
  | reference hm hph hp => exact .inr ⟨length_refEvents_le _ s.xd _, hm, hph, hp⟩

/-- A host operation adds few events, or it is the RX that completes a packet's reference angle. -/
theorem HostOpEvents.length_le {s : State} {i : Instr} {es : List Event} (h : HostOpEvents s i es) :
    es.length ≤ 3 ∨ (es.length ≤ 33 ∧ (∃ b, i = .rx b) ∧ s.mode = .exp ∧ s.xd.ph = .body ∧ s.xd.pos = 3) := by
  cases h with
  | reset => exact .inl ((length_abortEvents_le _ .reset s).trans (by decide))
  | stop => exact .inl ((length_abortEvents_le _ .stop s).trans (by decide))
  | xfail => exact .inl (Nat.succ_le_succ (length_abortEvents_le _ .xfail s))
  | start k =>
    rw [List.length_append]
    exact .inl (Nat.succ_le_succ (length_abortEvents_le _ .restart s))
  | rx b _ hes => exact hes.length_le.imp_right fun ⟨h33, hoffset⟩ => ⟨h33, ⟨b, rfl⟩, hoffset⟩
  | encode => exact .inl (by simp)

/-- Settles O51: the events a host operation adds (`exec_hostOp_adds`) are few, or those of offset 3. -/
theorem largestStepIsThirtyThreeEvents : Obligations.LargestStepIsThirtyThreeEvents := by
  intro s t i hi h
  obtain ⟨es, hes, he⟩ := exec_hostOp_adds hi h
  refine ⟨es, he, ?_⟩
  rcases hes.length_le with h3 | ⟨h33, hoffset⟩
  · exact ⟨h3.trans (by decide), fun hmore => absurd h3 (Nat.not_le.2 hmore)⟩
  · exact ⟨h33, fun _ => hoffset⟩

end Sys2Proof.Machine
end
